-- ==== Sys2Proof/Word.lean ====
section
/-! DEFINITION. The value types of the HAM6 encoder block: words, colour triples, the HAM6 operation, and the accesses the
host makes on the block's port (spec/00_scope.md R9, R10; spec/20_memory.md R60; spec/30_encoding.md R90). -/

namespace Sys2Proof

/-- A 32-bit word of the host port (20_memory.md R60). -/
abbrev Word := BitVec 32

/-- One byte lane of the frame buffer (20_memory.md R63). -/
abbrev Byte := BitVec 8

/-- A triple of channels, red, green, blue (00_scope.md R10). -/
structure Rgb (α : Type) where
  r : α
  g : α
  b : α
deriving DecidableEq, Repr, Inhabited

/-- An operation written once per channel (00_scope.md R10). -/
def Rgb.map {α β : Type} (f : α → β) (t : Rgb α) : Rgb β := ⟨f t.r, f t.g, f t.b⟩

/-- A two-operand operation written once per channel (00_scope.md R10). -/
def Rgb.zipWith {α β γ : Type} (f : α → β → γ) (t : Rgb α) (u : Rgb β) : Rgb γ := ⟨f t.r u.r, f t.g u.g, f t.b u.b⟩

/-- The names of the three channels (00_scope.md R10). -/
inductive Channel where
  | r
  | g
  | b
deriving DecidableEq, Repr

/-- `t.c` for a channel name `c` (00_scope.md R10). -/
def Rgb.chan {α : Type} (t : Rgb α) : Channel → α
  | .r => t.r
  | .g => t.g
  | .b => t.b

/-- `Color12`: a triple of 4-bit channels (00_scope.md R9). -/
abbrev Color12 := Rgb (BitVec 4)

/-- `Rgb8`: a triple of 8-bit channels (00_scope.md R9). -/
abbrev Rgb8 := Rgb (BitVec 8)

/-- `Op`: the closed four-way variant of a HAM6 operation (00_scope.md R9). -/
inductive Op where
  | usePalette
  | modifyRed
  | modifyGreen
  | modifyBlue
deriving DecidableEq, Repr

/-- The rounding of the diffusion division, `DIFF_DIV` (44_dither.md R222). -/
inductive DiffDiv where
  | trunc
  | floor
deriving DecidableEq, Repr

/-- A host access of `size` bytes at byte offset `off` of the block's 8 MiB region: `MemRead(off, size)` or
`MemWrite(off, size, data)` (20_memory.md R60). Only `size = 4` at a multiple of 4 is defined (R62); the type holds the
others so that they can be refused. -/
inductive Access where
  | read (off : BitVec 23) (size : Nat)
  | write (off : BitVec 23) (size : Nat) (data : Word)
deriving DecidableEq, Repr

/-- What the outside world does to the block: one host access (20_memory.md R60), or the block reset that the platform
applies (70_reset_and_hazards.md R280). -/
inductive HostEvent where
  | access (a : Access)
  | blockReset
deriving DecidableEq, Repr

/-- The three instruction-like formats (30_encoding.md R90): a 6-bit HAM6 word, the 32-bit data of a `CMD` write, and one
host access. -/
inductive Code where
  | ham6 (w : BitVec 6)
  | cmd (data : Word)
  | mmio (a : Access)
deriving DecidableEq, Repr

/-- Why an access has no instruction: it is not 4 bytes wide, or its offset is not a multiple of 4 (20_memory.md R62). -/
inductive DecodeReject where
  | narrow
  | misaligned
deriving DecidableEq, Repr

end Sys2Proof
end

