-- ==== Sys2Proof/Config.lean ====
section
/-! DEFINITION. What an implementation fixes: the block's parameters (spec/00_scope.md R6). `FB_PIXELS` and `RESET_PALETTE`
are OPEN, so their values at reset are opaque constants: no proof can see them. -/

namespace Sys2Proof

/-- The parameters a model takes as arguments (00_scope.md R6, 93_implementation_defined.md I1, I4, I14). They stand in
`State.params` and no step changes them (log 3). -/
structure Params where
  /-- `FB_PIXELS`, the frame-buffer capacity in pixels. -/
  fbPixels : Nat
  /-- `RESET_PALETTE`, the palette's reset contents. -/
  resetPalette : Vector Color12 16
  /-- `DIFF_DIV`, the rounding of the diffusion division. -/
  diffDiv : DiffDiv
deriving DecidableEq, Repr

/-- `FB_PIXELS` is 1 to 2^20 (00_scope.md R6). -/
def Params.Legal (p : Params) : Prop := 1 ≤ p.fbPixels ∧ p.fbPixels ≤ 2 ^ 20

/-- The OPEN capacity less one: any 20-bit number, so that the capacity is 1 to 2^20 (92_eei_decisions.md D19; log 4). -/
opaque Config.fbPixelsLessOne : BitVec 20

/-- `FB_PIXELS` of the implementation (00_scope.md R6; log 4). -/
def Config.fbPixels : Nat := Config.fbPixelsLessOne.toNat + 1

/-- The OPEN reset contents of the palette (10_state.md R38, 92_eei_decisions.md D27; log 5). -/
opaque Config.resetPalette : BitVec 4 → Color12

/-- `DIFF_DIV` of the implementation: the spec's default (44_dither.md R222, 92_eei_decisions.md D23; log 6). -/
def Config.diffDiv : DiffDiv := .trunc

/-- The implementation's parameters. -/
def Config.params : Params :=
  { fbPixels := Config.fbPixels
    resetPalette :=
      #v[Config.resetPalette 0, Config.resetPalette 1, Config.resetPalette 2, Config.resetPalette 3,
        Config.resetPalette 4, Config.resetPalette 5, Config.resetPalette 6, Config.resetPalette 7,
        Config.resetPalette 8, Config.resetPalette 9, Config.resetPalette 10, Config.resetPalette 11,
        Config.resetPalette 12, Config.resetPalette 13, Config.resetPalette 14, Config.resetPalette 15]
    diffDiv := Config.diffDiv }

end Sys2Proof
end

