-- ==== Sys2Proof/Machine/State.lean ====
section
/-! DEFINITION. The state of one block instance (spec/10_state.md R20), with the parameters of the model and the host side of
the port, and the reasons a step can stop. -/

namespace Sys2Proof.Machine

/-- The frame buffer's bytes: (byte offset, byte) pairs at strictly rising offsets. A byte that is not listed has been written
by nothing since reset and has no value (20_memory.md R69; log 7, log 9). -/
abbrev Memory := List Host.Cell

/-- What the block holds (10_state.md R20), then the model's own fields. -/
structure State where
  /-- `CTRL.FFC` (10_state.md R22). -/
  ffc : Bool
  /-- `STATUS`: [0] ENC_OVF, [1] DEC_OVF, [2] DEC_LEN, [3] CMD_ERR (10_state.md R24). -/
  status : BitVec 4
  /-- `WIDTH` (10_state.md R25). -/
  width : BitVec 16
  /-- `HEIGHT` (10_state.md R26). -/
  height : BitVec 16
  /-- `ENC_PREV` (10_state.md R29). -/
  encPrev : Color12
  /-- `ENC_COUNT` (10_state.md R30). -/
  encCount : BitVec 32
  /-- `ENC_OUT`: WORD [5:0], DIST [15:6] (10_state.md R28). -/
  encOut : BitVec 16
  /-- `DEC_PREV` (10_state.md R33). -/
  decPrev : Color12
  /-- `DEC_COUNT` (10_state.md R34). -/
  decCount : BitVec 32
  /-- `DEC_OUT` (10_state.md R32). -/
  decOut : Rgb8
  /-- `PAL[0..15]` (10_state.md R38). -/
  pal : Vector Color12 16
  /-- `LOOKUP_OUT`: IDX [3:0], DIST [13:4] (10_state.md R36). -/
  lookupOut : BitVec 14
  /-- `FB` (10_state.md R39). -/
  mem : Memory
  /-- `DTH.err`, three signed terms, 0 outside a naive pass (10_state.md R40; log 10). -/
  dthErr : Rgb (BitVec 10)
  /-- The model's own: the parameters, which no step changes (00_scope.md R6; log 3). -/
  params : Params
  /-- The model's own: what the host is going to do at the port, oldest first (20_memory.md R60, R71; log 1). -/
  port : List HostEvent
  /-- The model's own: the word the last `MemRead` returned (20_memory.md R60; log 2). -/
  readData : Word
deriving DecidableEq, Repr

/-- Why the machine stops with a fault. -/
inductive Fault where
  /-- A host read of frame-buffer word `n`, or a dither pass that reads it, while no write has set it since reset
  (20_memory.md R69, 70_reset_and_hazards.md R288). Raised by `execFbR` and by the three dither commands. Safe: the spec
  leaves the value unspecified and asks a model to fault (log 7). -/
  | unwrittenFrameBuffer (n : Nat)
deriving DecidableEq, Repr

/-- Why the machine refuses an event. -/
inductive Refusal where
  /-- Raised by `exec` for an instruction that has no meaning yet. Safe. -/
  | notModelled (mnemonic : String)
  /-- Raised by `step` for an access that is not 4 bytes wide (20_memory.md R62). Safe (log 8). -/
  | narrowAccess
  /-- Raised by `step` for an access whose offset is not a multiple of 4 (20_memory.md R62). Safe (log 8). -/
  | misalignedAccess
deriving DecidableEq, Repr

/-- The block right after reset, with the parameters `p` and the events `port` still to come (70_reset_and_hazards.md R280,
10_state.md R21): registers 0, the palette at `RESET_PALETTE`, every frame-buffer word unwritten. `dthErr` and `readData`
are 0 by the model's choice (log 10, log 2). -/
def State.afterReset (p : Params) (port : List HostEvent) : State :=
  { ffc := false
    status := 0
    width := 0
    height := 0
    encPrev := ⟨0, 0, 0⟩
    encCount := 0
    encOut := 0
    decPrev := ⟨0, 0, 0⟩
    decCount := 0
    decOut := ⟨0, 0, 0⟩
    pal := p.resetPalette
    lookupOut := 0
    mem := []
    dthErr := ⟨0, 0, 0⟩
    params := p
    port := port
    readData := 0 }

/-- The machine right after reset: the implementation's parameters, and no event to come (log 1). -/
def State.reset : State := State.afterReset Config.params []

end Sys2Proof.Machine
end

