-- ==== Sys2Proof/Machine/Colour.lean ====
section
/-! DEFINITION. The colour unit: quantizer, expander, distance and the dither engine's `q8`, clamp and division
(spec/40_color.md R120 to R123; spec/44_dither.md R221, R222). -/

namespace Sys2Proof.Machine

/-- `quantize`: `v >> 4` per channel (40_color.md R120). -/
def quantize (p : Rgb8) : Color12 := p.map (fun v => v.extractLsb' 4 4)

/-- One channel of `expand`: `(v << 4) + v` (40_color.md R121). -/
def expand1 (v : BitVec 4) : BitVec 8 := (v.setWidth 8 <<< 4) + v.setWidth 8

/-- `expand`: `(v << 4) + v` per channel (40_color.md R121). -/
def expand (c : Color12) : Rgb8 := c.map expand1

/-- The square of the difference of two channels, as an exact integer (40_color.md R122). -/
def sqDiff (x y : BitVec 4) : Nat := (((x.toNat : Int) - y.toNat) * ((x.toNat : Int) - y.toNat)).toNat

/-- `dist`: the sum of the channels' squared differences, 0 to 675 (40_color.md R122). -/
def distance (a b : Color12) : Nat := sqDiff a.r b.r + sqDiff a.g b.g + sqDiff a.b b.b

/-- `q8(v) = expand1(v >> 4)` (40_color.md R123). -/
def q8 (v : BitVec 8) : BitVec 8 := expand1 (v.extractLsb' 4 4)

/-- `clamp(v) = min(255, max(0, v))`, as a `U8` (44_dither.md R221). -/
def clamp8 (z : Int) : BitVec 8 := BitVec.ofInt 8 (min 255 (max 0 z))

/-- `div(a, d)`: the product divided once, rounded as `DIFF_DIV` says (44_dither.md R222). -/
def diffDiv (mode : DiffDiv) (a : Int) (d : Nat) : Int :=
  match mode with
  | .trunc => Int.tdiv a d
  | .floor => Int.fdiv a d

end Sys2Proof.Machine
end

