-- ==== Sys2Proof/Syntax.lean ====
section
/-! DEFINITION. The instructions: one constructor per row of spec/opcode_table.json, in the table's order. A write carries
its whole 32-bit data; which bits count is the meaning's business (spec/20_memory.md R66). -/

namespace Sys2Proof

inductive Instr where
  /-- `USEPAL n` (43_decoder.md R192). -/
  | usepal (n : BitVec 4)
  /-- `MODR n` (43_decoder.md R193). -/
  | modr (n : BitVec 4)
  /-- `MODG n` (43_decoder.md R194). -/
  | modg (n : BitVec 4)
  /-- `MODB n` (43_decoder.md R195). -/
  | modb (n : BitVec 4)
  /-- `CMD` code 0x0 (30_encoding.md R95). -/
  | nop
  /-- `CMD` code 0x1 (42_encoder.md R166). -/
  | encReset
  /-- `CMD` code 0x2 (43_decoder.md R197). -/
  | decReset
  /-- `CMD` code 0x3 (43_decoder.md R198). -/
  | decCheck
  /-- `CMD` code 0x4 (44_dither.md R223). -/
  | ditherNaive
  /-- `CMD` code 0x5 (44_dither.md R225). -/
  | ditherFs
  /-- `CMD` code 0x6 (44_dither.md R227). -/
  | ditherJjn
  /-- `CMD` code 0x7, reserved (30_encoding.md R96). -/
  | cmdReserved7
  /-- `CMD` codes 0x8 to 0xF, reserved (30_encoding.md R96). -/
  | cmdReserved8F (code : BitVec 4)
  /-- Write of `CTRL` (10_state.md R22). -/
  | ctrlW (v : Word)
  /-- Read of `CTRL` (10_state.md R22). -/
  | ctrlR
  /-- Write of `CMD`, which performs a command (10_state.md R23). -/
  | cmdW (v : Word)
  /-- Read of `STATUS` (10_state.md R24). -/
  | statusR
  /-- Write of `STATUS`, write one to clear (60_exceptions.md R256). -/
  | statusW1C (v : Word)
  /-- Write of `WIDTH` (10_state.md R25). -/
  | widthW (v : Word)
  /-- Read of `WIDTH` (10_state.md R25). -/
  | widthR
  /-- Write of `HEIGHT` (10_state.md R26). -/
  | heightW (v : Word)
  /-- Read of `HEIGHT` (10_state.md R26). -/
  | heightR
  /-- Write of `ENC_IN`, one encoder step (42_encoder.md R161). -/
  | encInW (v : Word)
  /-- Read of `ENC_OUT` (42_encoder.md R167). -/
  | encOutR
  /-- Read of `ENC_PREV` (42_encoder.md R167). -/
  | encPrevR
  /-- Read of `ENC_COUNT` (42_encoder.md R167). -/
  | encCountR
  /-- Write of `DEC_IN`, one decoder step (43_decoder.md R191). -/
  | decInW (v : Word)
  /-- Read of `DEC_OUT` (43_decoder.md R199). -/
  | decOutR
  /-- Read of `DEC_PREV` (43_decoder.md R199). -/
  | decPrevR
  /-- Read of `DEC_COUNT` (43_decoder.md R199). -/
  | decCountR
  /-- Write of `LOOKUP`, one palette lookup (41_palette.md R143). -/
  | lookupW (v : Word)
  /-- Read of `LOOKUP_OUT` (41_palette.md R144). -/
  | lookupOutR
  /-- Read of `FB_SIZE` (10_state.md R37). -/
  | fbSizeR
  /-- Write of `PAL[i]` (41_palette.md R141). -/
  | palW (i : BitVec 4) (v : Word)
  /-- Read of `PAL[i]` (41_palette.md R141). -/
  | palR (i : BitVec 4)
  /-- Write of frame-buffer word `n` (20_memory.md R69, R70). -/
  | fbW (n : BitVec 20) (v : Word)
  /-- Read of frame-buffer word `n` (20_memory.md R69, R70). -/
  | fbR (n : BitVec 20)
  /-- Read of write-only `CMD` (20_memory.md R67). -/
  | cmdR
  /-- Read of write-only `ENC_IN` (20_memory.md R67). -/
  | encInR
  /-- Read of write-only `DEC_IN` (20_memory.md R67). -/
  | decInR
  /-- Read of write-only `LOOKUP` (20_memory.md R67). -/
  | lookupR
  /-- Write of read-only `ENC_OUT` (20_memory.md R67). -/
  | encOutW (v : Word)
  /-- Write of read-only `ENC_PREV` (20_memory.md R67). -/
  | encPrevW (v : Word)
  /-- Write of read-only `ENC_COUNT` (20_memory.md R67). -/
  | encCountW (v : Word)
  /-- Write of read-only `DEC_OUT` (20_memory.md R67). -/
  | decOutW (v : Word)
  /-- Write of read-only `DEC_PREV` (20_memory.md R67). -/
  | decPrevW (v : Word)
  /-- Write of read-only `DEC_COUNT` (20_memory.md R67). -/
  | decCountW (v : Word)
  /-- Write of read-only `LOOKUP_OUT` (20_memory.md R67). -/
  | lookupOutW (v : Word)
  /-- Write of read-only `FB_SIZE` (20_memory.md R67). -/
  | fbSizeW (v : Word)
  /-- Read of the reserved or unmapped word `k` of the register space, at offset `4 * k` (20_memory.md R65). -/
  | reservedR (k : BitVec 20)
  /-- Write of the reserved or unmapped word `k` of the register space, at offset `4 * k` (20_memory.md R65). -/
  | reservedW (k : BitVec 20) (v : Word)
deriving DecidableEq, Repr

end Sys2Proof
end

