-- ==== Sys2Proof/WellFormed.lean ====
section
/-! DEFINITION. Which instructions an encoding of the spec can stand for. Every payload, index and data word is legal
(spec/30_encoding.md R97, spec/41_palette.md R140), so only two rows of the table have a check. -/

namespace Sys2Proof

/-- `CMD_RESERVED_8_F` stands for codes 0x8 to 0xF (30_encoding.md R96); the reserved rows stand for the offsets 0x80 to
0x3FFFFF, that is the words from 0x20 on (20_memory.md R65). -/
def Instr.wellFormed : Instr → Bool
  | .cmdReserved8F code => 8 ≤ code.toNat
  | .reservedR k => 0x20 ≤ k.toNat
  | .reservedW k _ => 0x20 ≤ k.toNat
  | .usepal _ | .modr _ | .modg _ | .modb _ => true
  | .nop | .encReset | .decReset | .decCheck | .ditherNaive | .ditherFs | .ditherJjn | .cmdReserved7 => true
  | .ctrlW _ | .ctrlR | .cmdW _ | .statusR | .statusW1C _ | .widthW _ | .widthR | .heightW _ | .heightR => true
  | .encInW _ | .encOutR | .encPrevR | .encCountR | .decInW _ | .decOutR | .decPrevR | .decCountR => true
  | .lookupW _ | .lookupOutR | .fbSizeR | .palW _ _ | .palR _ | .fbW _ _ | .fbR _ => true
  | .cmdR | .encInR | .decInR | .lookupR => true
  | .encOutW _ | .encPrevW _ | .encCountW _ | .decOutW _ | .decPrevW _ | .decCountW _ | .lookupOutW _ | .fbSizeW _ => true

end Sys2Proof
end

