-- ==== Sys2Proof/Decode.lean ====
section
/-! DEFINITION. The decoder and the encoder of the three formats (spec/30_encoding.md R90): the 6-bit HAM6 word, the code of
a `CMD` write and the host access at an offset (spec/10_state.md R21, spec/20_memory.md R64). The block fetches no bytes
(spec/20_memory.md R74): what it decodes are these. Decoding is total; the only codes it rejects are accesses that are not
aligned 32-bit accesses (spec/20_memory.md R62). -/

namespace Sys2Proof

/-! ### HAM6 words -/

/-- `op_of`: the operation of a 2-bit `OP` field (30_encoding.md R92). -/
def opOf (c : BitVec 2) : Op :=
  match c with
  | 0b00#2 => .usePalette
  | 0b01#2 => .modifyRed
  | 0b10#2 => .modifyGreen
  | 0b11#2 => .modifyBlue

/-- `code_of`: the `OP` field of an operation (30_encoding.md R92). -/
def codeOf : Op → BitVec 2
  | .usePalette => 0b00
  | .modifyRed => 0b01
  | .modifyGreen => 0b10
  | .modifyBlue => 0b11

/-- `decode6(w) = (op_of(w[5:4]), w[3:0])` (30_encoding.md R91). -/
def decode6 (w : BitVec 6) : Op × BitVec 4 := (opOf (w.extractLsb' 4 2), w.extractLsb' 0 4)

/-- `encode6(op, p) = {code_of(op), p}` (30_encoding.md R91). -/
def encode6 (op : Op) (p : BitVec 4) : BitVec 6 := codeOf op ++ p

/-- The instruction of an operation and a payload (30_encoding.md R92). -/
def ham6Instr (op : Op) (p : BitVec 4) : Instr :=
  match op with
  | .usePalette => .usepal p
  | .modifyRed => .modr p
  | .modifyGreen => .modg p
  | .modifyBlue => .modb p

/-- The instruction of a HAM6 word; every word has one (30_encoding.md R97). -/
def decodeHam6 (w : BitVec 6) : Instr := ham6Instr (decode6 w).1 (decode6 w).2

/-! ### CMD codes -/

/-- `CODE = data[3:0]` of a `CMD` write; `data[31:4]` is ignored (30_encoding.md R95). -/
def cmdCode (data : Word) : BitVec 4 := data.extractLsb' 0 4

/-- The command of a code (30_encoding.md R95, R96). -/
def decodeCode (c : BitVec 4) : Instr :=
  match c with
  | 0x0#4 => .nop
  | 0x1#4 => .encReset
  | 0x2#4 => .decReset
  | 0x3#4 => .decCheck
  | 0x4#4 => .ditherNaive
  | 0x5#4 => .ditherFs
  | 0x6#4 => .ditherJjn
  | 0x7#4 => .cmdReserved7
  | c => .cmdReserved8F c

/-- The command that the data of a `CMD` write selects (30_encoding.md R95). -/
def decodeCmd (data : Word) : Instr := decodeCode (cmdCode data)

/-! ### Host accesses -/

/-- The read of the control, status, encoder, decoder or lookup register number `k`, offset `4 * k` (10_state.md R21). -/
def registerRead (k : BitVec 4) : Instr :=
  match k with
  | 0x0#4 => .ctrlR
  | 0x1#4 => .cmdR
  | 0x2#4 => .statusR
  | 0x3#4 => .widthR
  | 0x4#4 => .heightR
  | 0x5#4 => .encInR
  | 0x6#4 => .encOutR
  | 0x7#4 => .encPrevR
  | 0x8#4 => .encCountR
  | 0x9#4 => .decInR
  | 0xA#4 => .decOutR
  | 0xB#4 => .decPrevR
  | 0xC#4 => .decCountR
  | 0xD#4 => .lookupR
  | 0xE#4 => .lookupOutR
  | _ => .fbSizeR  -- 0xF

/-- The write of register number `k`, offset `4 * k` (10_state.md R21). -/
def registerWrite (k : BitVec 4) (v : Word) : Instr :=
  match k with
  | 0x0#4 => .ctrlW v
  | 0x1#4 => .cmdW v
  | 0x2#4 => .statusW1C v
  | 0x3#4 => .widthW v
  | 0x4#4 => .heightW v
  | 0x5#4 => .encInW v
  | 0x6#4 => .encOutW v
  | 0x7#4 => .encPrevW v
  | 0x8#4 => .encCountW v
  | 0x9#4 => .decInW v
  | 0xA#4 => .decOutW v
  | 0xB#4 => .decPrevW v
  | 0xC#4 => .decCountW v
  | 0xD#4 => .lookupW v
  | 0xE#4 => .lookupOutW v
  | _ => .fbSizeW v  -- 0xF

/-- The instruction of an aligned 32-bit read (20_memory.md R64). -/
def decodeRead (off : BitVec 23) : Instr :=
  if 0x400000 ≤ off.toNat then .fbR (off.extractLsb' 2 20)
  else if off.toNat < 0x40 then registerRead (off.extractLsb' 2 4)
  else if off.toNat < 0x80 then .palR (off.extractLsb' 2 4)
  else .reservedR (off.extractLsb' 2 20)

/-- The instruction of an aligned 32-bit write (20_memory.md R64). -/
def decodeWrite (off : BitVec 23) (v : Word) : Instr :=
  if 0x400000 ≤ off.toNat then .fbW (off.extractLsb' 2 20) v
  else if off.toNat < 0x40 then registerWrite (off.extractLsb' 2 4) v
  else if off.toNat < 0x80 then .palW (off.extractLsb' 2 4) v
  else .reservedW (off.extractLsb' 2 20) v

/-- An access must be 4 bytes wide, at a multiple of 4 (20_memory.md R62). -/
def accessReject (off : BitVec 23) (size : Nat) : Option DecodeReject :=
  if size ≠ 4 then some .narrow
  else if off.extractLsb' 0 2 ≠ 0 then some .misaligned
  else none

/-- The instruction of a host access (10_state.md R21, 20_memory.md R62, R64). -/
def decodeAccess : Access → Except DecodeReject Instr
  | .read off size =>
    match accessReject off size with
    | some r => .error r
    | none => .ok (decodeRead off)
  | .write off size v =>
    match accessReject off size with
    | some r => .error r
    | none => .ok (decodeWrite off v)

/-- The decoder over the three formats (30_encoding.md R90). -/
def decode : Code → Except DecodeReject Instr
  | .ham6 w => .ok (decodeHam6 w)
  | .cmd data => .ok (decodeCmd data)
  | .mmio a => decodeAccess a

/-! ### The encoder -/

/-- The offset of register number `k` (10_state.md R21). -/
def registerOffset (k : BitVec 4) : BitVec 23 := 0#17 ++ (k ++ 0#2)

/-- The offset `0x40 + 4 * i` of palette entry `i` (41_palette.md R141). -/
def palOffset (i : BitVec 4) : BitVec 23 := 1#17 ++ (i ++ 0#2)

/-- The offset `0x400000 + 4 * n` of frame-buffer word `n` (20_memory.md R69). -/
def fbOffset (n : BitVec 20) : BitVec 23 := 1#1 ++ (n ++ 0#2)

/-- The offset `4 * k` of word `k` of the register space (20_memory.md R65). -/
def spaceOffset (k : BitVec 20) : BitVec 23 := 0#1 ++ (k ++ 0#2)

/-- `MemRead(off, 4)` (20_memory.md R60). -/
def readCode (off : BitVec 23) : Code := .mmio (.read off 4)

/-- `MemWrite(off, 4, v)` (20_memory.md R60). -/
def writeCode (off : BitVec 23) (v : Word) : Code := .mmio (.write off 4 v)

/-- The data word of a `CMD` write of code `c`, its ignored bits 0 (30_encoding.md R95, R100). -/
def cmdData (c : BitVec 4) : Word := c.setWidth 32

/-- The code of an instruction, from the tables of 30_encoding.md R92, R95 and 10_state.md R21. -/
def encode : Instr → Code
  | .usepal n => .ham6 (encode6 .usePalette n)
  | .modr n => .ham6 (encode6 .modifyRed n)
  | .modg n => .ham6 (encode6 .modifyGreen n)
  | .modb n => .ham6 (encode6 .modifyBlue n)
  | .nop => .cmd (cmdData 0x0)
  | .encReset => .cmd (cmdData 0x1)
  | .decReset => .cmd (cmdData 0x2)
  | .decCheck => .cmd (cmdData 0x3)
  | .ditherNaive => .cmd (cmdData 0x4)
  | .ditherFs => .cmd (cmdData 0x5)
  | .ditherJjn => .cmd (cmdData 0x6)
  | .cmdReserved7 => .cmd (cmdData 0x7)
  | .cmdReserved8F c => .cmd (cmdData c)
  | .ctrlW v => writeCode (registerOffset 0x0) v
  | .ctrlR => readCode (registerOffset 0x0)
  | .cmdW v => writeCode (registerOffset 0x1) v
  | .statusR => readCode (registerOffset 0x2)
  | .statusW1C v => writeCode (registerOffset 0x2) v
  | .widthW v => writeCode (registerOffset 0x3) v
  | .widthR => readCode (registerOffset 0x3)
  | .heightW v => writeCode (registerOffset 0x4) v
  | .heightR => readCode (registerOffset 0x4)
  | .encInW v => writeCode (registerOffset 0x5) v
  | .encOutR => readCode (registerOffset 0x6)
  | .encPrevR => readCode (registerOffset 0x7)
  | .encCountR => readCode (registerOffset 0x8)
  | .decInW v => writeCode (registerOffset 0x9) v
  | .decOutR => readCode (registerOffset 0xA)
  | .decPrevR => readCode (registerOffset 0xB)
  | .decCountR => readCode (registerOffset 0xC)
  | .lookupW v => writeCode (registerOffset 0xD) v
  | .lookupOutR => readCode (registerOffset 0xE)
  | .fbSizeR => readCode (registerOffset 0xF)
  | .palW i v => writeCode (palOffset i) v
  | .palR i => readCode (palOffset i)
  | .fbW n v => writeCode (fbOffset n) v
  | .fbR n => readCode (fbOffset n)
  | .cmdR => readCode (registerOffset 0x1)
  | .encInR => readCode (registerOffset 0x5)
  | .decInR => readCode (registerOffset 0x9)
  | .lookupR => readCode (registerOffset 0xD)
  | .encOutW v => writeCode (registerOffset 0x6) v
  | .encPrevW v => writeCode (registerOffset 0x7) v
  | .encCountW v => writeCode (registerOffset 0x8) v
  | .decOutW v => writeCode (registerOffset 0xA) v
  | .decPrevW v => writeCode (registerOffset 0xB) v
  | .decCountW v => writeCode (registerOffset 0xC) v
  | .lookupOutW v => writeCode (registerOffset 0xE) v
  | .fbSizeW v => writeCode (registerOffset 0xF) v
  | .reservedR k => readCode (spaceOffset k)
  | .reservedW k v => writeCode (spaceOffset k) v

/-! ### How a code reaches the block, and the opcode table's numbering -/

/-- The host access that carries a code: a HAM6 word is data of a `DEC_IN` write, a command is data of a `CMD` write, and an
access carries itself (30_encoding.md R90; 10_state.md R23, R31). -/
def carrier : Code → Access
  | .ham6 w => .write (registerOffset 0x9) 4 (w.setWidth 32)
  | .cmd data => .write (registerOffset 0x1) 4 data
  | .mmio a => a

/-- The code that `nbits` bits of value `w` stand for, as spec/opcode_table.json numbers them. The table gives each format its
own bits from bit 0 up, and says neither the format nor (of an access) the direction, so this numbering adds (log 13):
up to 8 bits, a number 1 to 15 is a command code and any other a HAM6 word;
up to 24 bits, bits 22..0 are the offset of an access and bit 23 its direction (0 write, 1 read), with data 0;
up to 32 bits, the number is the data of a `CMD` write;
above, bits 22..0 are the offset, bit 23 the direction and bits 55..24 the data of an access. -/
def tableCode (nbits w : Nat) : Code :=
  if nbits ≤ 8 then
    if 1 ≤ w ∧ w ≤ 15 then .cmd (BitVec.ofNat 32 w) else .ham6 (BitVec.ofNat 6 w)
  else if nbits ≤ 24 ∨ 32 < nbits then
    if w / 2 ^ 23 % 2 = 1 then readCode (BitVec.ofNat 23 w)
    else writeCode (BitVec.ofNat 23 w) (BitVec.ofNat 32 (w / 2 ^ 24))
  else .cmd (BitVec.ofNat 32 w)

/-- The instruction the decoder reads from a word of the opcode table (log 13). -/
def decodeTableWord (nbits w : Nat) : Option Instr := (decode (tableCode nbits w)).toOption

end Sys2Proof
end

