-- ==== Sys2Proof/Machine/Flags.lean ====
section
/-! DEFINITION. The flags: the four sticky error bits of `STATUS` (spec/10_state.md R24, R43; spec/60_exceptions.md R250). -/

namespace Sys2Proof.Machine

/-- The block's errors (60_exceptions.md R250). -/
inductive ErrorName where
  | encOvf
  | decOvf
  | decLen
  | cmdErr
deriving DecidableEq, Repr

/-- An error's code, its `STATUS` bit number (60_exceptions.md R250). -/
def errorCode : ErrorName → Nat
  | .encOvf => 0
  | .decOvf => 1
  | .decLen => 2
  | .cmdErr => 3

/-- `STATUS[code(E)] <- 1` (60_exceptions.md R250). -/
def statusRaise (e : ErrorName) (status : BitVec 4) : BitVec 4 := status ||| (1#4 <<< errorCode e)

/-- Write one to clear: every bit `k` with `v[k] = 1` goes to 0 (60_exceptions.md R256). -/
def statusClear (v : Word) (status : BitVec 4) : BitVec 4 := status &&& ~~~(v.extractLsb' 0 4)

end Sys2Proof.Machine
end

