-- ==== Sys2Proof/Machine/Operands.lean ====
section
/-! DEFINITION. The operand forms: how the data of a write is taken apart and the result of a read put together
(spec/30_encoding.md R93, R94, R101; spec/20_memory.md R66). -/

namespace Sys2Proof.Machine

/-- `pack12((r, g, b)) = {r, g, b}` (30_encoding.md R93). -/
def pack12 (c : Color12) : BitVec 12 := c.r ++ c.g ++ c.b

/-- `unpack12(v) = (v[11:8], v[7:4], v[3:0])` (30_encoding.md R93). -/
def unpack12 (v : BitVec 12) : Color12 := ⟨v.extractLsb' 8 4, v.extractLsb' 4 4, v.extractLsb' 0 4⟩

/-- `pack24((r, g, b)) = {r, g, b}` (30_encoding.md R94). -/
def pack24 (p : Rgb8) : BitVec 24 := p.r ++ p.g ++ p.b

/-- `unpack24(v) = (v[23:16], v[15:8], v[7:0])` (30_encoding.md R94). -/
def unpack24 (v : BitVec 24) : Rgb8 := ⟨v.extractLsb' 16 8, v.extractLsb' 8 8, v.extractLsb' 0 8⟩

/-- The colour in the data of a `LOOKUP` or `PALi` write; `v[31:12]` is ignored (10_state.md R35, R38). -/
def color12Of (v : Word) : Color12 := unpack12 (v.extractLsb' 0 12)

/-- The pixel in the data of an `ENC_IN` or `FB` write; `v[31:24]` is ignored (10_state.md R27, R39). -/
def rgb8Of (v : Word) : Rgb8 := unpack24 (v.extractLsb' 0 24)

/-- The word a colour reads as (10_state.md R29, R33, R38). -/
def wordOfColor12 (c : Color12) : Word := (pack12 c).setWidth 32

/-- The word a pixel reads as (10_state.md R32, R39). -/
def wordOfRgb8 (p : Rgb8) : Word := (pack24 p).setWidth 32

/-- `ENC_OUT`'s contents, `{d[9:0], word}` (42_encoder.md R165). -/
def packEncOut (d : Nat) (word : BitVec 6) : BitVec 16 := BitVec.ofNat 10 d ++ word

/-- `LOOKUP_OUT`'s contents, `{d[9:0], i}` (41_palette.md R143). -/
def packLookupOut (d : Nat) (i : BitVec 4) : BitVec 14 := BitVec.ofNat 10 d ++ i

end Sys2Proof.Machine
end

