-- ==== Sys2Proof/Machine/Ops.lean ====
section
/-! DEFINITION. The named operations over the frame buffer, the palette and the registers that the meanings share, with the
one way an error is taken (spec/00_scope.md R8). -/

namespace Sys2Proof.Machine

/-! ### Memory -/

/-- The byte at offset `a`, or none where nothing has written since reset (20_memory.md R69). -/
def Memory.read : Memory → Nat → Option Byte
  | [], _ => none
  | (k, b) :: m, a => if k = a then some b else Memory.read m a

/-- Writes one byte, keeping the offsets strictly rising. -/
def Memory.write : Memory → Nat → Byte → Memory
  | [], a, v => [(a, v)]
  | (k, b) :: m, a, v =>
    if a < k then (a, v) :: (k, b) :: m
    else if a = k then (a, v) :: m
    else (k, b) :: Memory.write m a v

/-- Every offset of the list lies above `lo`. -/
def Memory.above (lo : Nat) : Memory → Bool
  | [] => true
  | (k, _) :: m => decide (lo < k) && Memory.above lo m

/-- The canonical form: offsets strictly rising. An unlisted byte has no value, so no entry can equal it. -/
def Memory.wf : Memory → Bool
  | [] => true
  | (k, _) :: m => Memory.above k m && Memory.wf m

/-- The byte offset of frame-buffer word `n` (10_state.md R39). -/
def fbAddr (n : Nat) : Nat := 0x400000 + 4 * n

/-- `FB[n]`, none while it is unwritten (20_memory.md R69). Blue is the lowest byte lane, the reserved lane holds nothing
(20_memory.md R63, 10_state.md R39; log 9). -/
def fbRead (m : Memory) (n : Nat) : Option Rgb8 :=
  match m.read (fbAddr n + 2), m.read (fbAddr n + 1), m.read (fbAddr n) with
  | some r, some g, some b => some ⟨r, g, b⟩
  | _, _, _ => none

/-- `FB[n] <- p` (20_memory.md R69; log 9). -/
def fbWrite (m : Memory) (n : Nat) (p : Rgb8) : Memory :=
  ((m.write (fbAddr n) p.b).write (fbAddr n + 1) p.g).write (fbAddr n + 2) p.r

/-! ### Palette -/

/-- `PAL[i]` (41_palette.md R140: every index names an entry). -/
def palGet (pal : Vector Color12 16) (i : BitVec 4) : Color12 := pal[i.toNat]'(i.isLt)

/-- `PAL[i] <- c` (41_palette.md R141). -/
def palSet (pal : Vector Color12 16) (i : BitVec 4) (c : Color12) : Vector Color12 16 := pal.set i.toNat c i.isLt

/-! ### Named updates of the state -/

def State.setFfc (s : State) (v : Bool) : State := { s with ffc := v }
def State.setStatus (s : State) (v : BitVec 4) : State := { s with status := v }
def State.setWidth (s : State) (v : BitVec 16) : State := { s with width := v }
def State.setHeight (s : State) (v : BitVec 16) : State := { s with height := v }

/-- `ENC_PREV` and `ENC_COUNT` together, as a reset command or a step writes them. -/
def State.setEnc (s : State) (prev : Color12) (count : BitVec 32) : State := { s with encPrev := prev, encCount := count }
def State.setEncOut (s : State) (v : BitVec 16) : State := { s with encOut := v }

/-- `DEC_PREV` and `DEC_COUNT` together, as a reset command or a step writes them. -/
def State.setDec (s : State) (prev : Color12) (count : BitVec 32) : State := { s with decPrev := prev, decCount := count }
def State.setDecOut (s : State) (v : Rgb8) : State := { s with decOut := v }
def State.setPal (s : State) (v : Vector Color12 16) : State := { s with pal := v }
def State.setLookupOut (s : State) (v : BitVec 14) : State := { s with lookupOut := v }
def State.setMem (s : State) (v : Memory) : State := { s with mem := v }
def State.setDthErr (s : State) (v : Rgb (BitVec 10)) : State := { s with dthErr := v }
def State.setPort (s : State) (v : List HostEvent) : State := { s with port := v }
def State.setReadData (s : State) (v : Word) : State := { s with readData := v }

/-! ### Shared operations -/

/-- What every meaning answers. -/
abbrev Answer := Host.Outcome State Fault Refusal

/-- The frame size `N = WIDTH * HEIGHT` (10_state.md R26). -/
def frameSize (s : State) : Nat := s.width.toNat * s.height.toNat

/-- `raise E`: sets the error's `STATUS` bit and ends the operation with no other change (00_scope.md R8, 60_exceptions.md
R250). The block has no traps, so this is all that taking an error does (60_exceptions.md R257). -/
def raiseError (e : ErrorName) (s : State) : State := s.setStatus (statusRaise e s.status)

/-- A `MemRead` returns `v` and changes nothing in the block (20_memory.md R60, R68). -/
def respond (v : Word) (s : State) : State := s.setReadData v

/-- The block reset as the host's event: every register as after reset; the parameters and the events still to come stay
(70_reset_and_hazards.md R280; log 11). -/
def blockReset (s : State) : State := State.afterReset s.params s.port

/-- The name under which a rejected access is refused (20_memory.md R62). -/
def refusalOf : DecodeReject → Refusal
  | .narrow => .narrowAccess
  | .misaligned => .misalignedAccess

end Sys2Proof.Machine
end

