-- ==== Sys2Proof/Machine/Decoder.lean ====
section
/-! DEFINITION. The decoder: one HAM6 word per `DEC_IN` write (spec/43_decoder.md). A HAM6 instruction is one whole decoder
step with its word: the guard of R191, its colour (R192 to R195) and the update of R196 (log 12). -/

namespace Sys2Proof.Machine

/-- The update of a successful step with the reconstructed colour `c` (43_decoder.md R196). -/
def decodeUpdate (c : Color12) (s : State) : State :=
  (s.setDec c (s.decCount + 1)).setDecOut (expand c)

/-- One decoder step that reconstructs `c`: the guard, then the update (43_decoder.md R191, R196; 60_exceptions.md R252). -/
def decodeStep (c : Color12) (s : State) : State :=
  if frameSize s ≤ s.decCount.toNat then raiseError .decOvf s
  else decodeUpdate c s

/-- `USEPAL n`: `c <- PAL[n]` (43_decoder.md R192). -/
def execUsepal (n : BitVec 4) (s : State) : Answer := .next (decodeStep (palGet s.pal n) s)

/-- `MODR n`: `c <- (n, p.g, p.b)` (43_decoder.md R193). -/
def execModr (n : BitVec 4) (s : State) : Answer := .next (decodeStep ⟨n, s.decPrev.g, s.decPrev.b⟩ s)

/-- `MODG n`: `c <- (p.r, n, p.b)` (43_decoder.md R194). -/
def execModg (n : BitVec 4) (s : State) : Answer := .next (decodeStep ⟨s.decPrev.r, n, s.decPrev.b⟩ s)

/-- `MODB n`: `c <- (p.r, p.g, n)` (43_decoder.md R195). -/
def execModb (n : BitVec 4) (s : State) : Answer := .next (decodeStep ⟨s.decPrev.r, s.decPrev.g, n⟩ s)

/-- One decoder step on the word `data[5:0]`: the instruction its `OP` selects (43_decoder.md R191). -/
def execDecInW (v : Word) (s : State) : Answer :=
  let w := decode6 (v.extractLsb' 0 6)
  match w.1 with
  | .usePalette => execUsepal w.2 s
  | .modifyRed => execModr w.2 s
  | .modifyGreen => execModg w.2 s
  | .modifyBlue => execModb w.2 s

/-- `DEC_RESET`: `DEC_PREV <- (0, 0, 0)`, `DEC_COUNT <- 0` (43_decoder.md R197). -/
def execDecReset (s : State) : Answer := .next (s.setDec ⟨0, 0, 0⟩ 0)

/-- `DEC_CHECK`: raises `DEC_LEN` if `DEC_COUNT != WIDTH * HEIGHT` (43_decoder.md R198, 60_exceptions.md R253). -/
def execDecCheck (s : State) : Answer :=
  if s.decCount.toNat ≠ frameSize s then .next (raiseError .decLen s) else .next s

/-- Returns `DEC_OUT` (43_decoder.md R199). -/
def execDecOutR (s : State) : Answer := .next (respond (wordOfRgb8 s.decOut) s)

/-- Returns `zext_32(pack12(DEC_PREV))` (43_decoder.md R199). -/
def execDecPrevR (s : State) : Answer := .next (respond (wordOfColor12 s.decPrev) s)

/-- Returns `DEC_COUNT` (43_decoder.md R199). -/
def execDecCountR (s : State) : Answer := .next (respond s.decCount s)

end Sys2Proof.Machine
end

