-- ==== Sys2Proof/Machine/Dither.lean ====
section
/-! DEFINITION. The dither engine: three passes over the frame buffer, each one command (spec/44_dither.md). A pass that reads
an unwritten word faults (spec/70_reset_and_hazards.md R288). -/

namespace Sys2Proof.Machine

/-- Runs `body` on each element in turn, stopping at the first fault. -/
def forEach {α : Type} (body : α → State → Except Fault State) : List α → State → Except Fault State
  | [], s => .ok s
  | a :: as, s =>
    match body a s with
    | .ok t => forEach body as t
    | .error f => .error f

/-- The numbers `a .. b`, both bounds inclusive and compared as signed integers: none when `b < a` (44_dither.md R228). -/
def span (a b : Int) : List Int := (List.range (b - a + 1).toNat).map (fun k : Nat => a + (k : Int))

/-- The pixels `(x, y)` of `x ∈ [x0, x1]`, `y ∈ [y0, y1]` in raster order, `y` outer, `x` inner (44_dither.md R223, R224). -/
def raster (x0 x1 y0 y1 : Int) : List (Int × Int) :=
  (span y0 y1).flatMap (fun y => (span x0 x1).map (fun x => (x, y)))

/-- The frame-buffer word `y * W + x` of pixel `(x, y)` (44_dither.md R220). -/
def pixelIndex (s : State) (x y : Int) : Nat := (y * (s.width.toNat : Int) + x).toNat

/-- Reads `FB(x, y)`; an unwritten word is a fault (44_dither.md R220, 70_reset_and_hazards.md R288). -/
def readPixel (s : State) (x y : Int) : Except Fault Rgb8 :=
  match fbRead s.mem (pixelIndex s x y) with
  | some p => .ok p
  | none => .error (.unwrittenFrameBuffer (pixelIndex s x y))

/-- `FB(x, y) <- p` (44_dither.md R220). -/
def writePixel (s : State) (x y : Int) (p : Rgb8) : State := s.setMem (fbWrite s.mem (pixelIndex s x y) p)

/-! ### The naive filter -/

/-- The corrected channel, `clamp(o + err)` (44_dither.md R223). -/
def naiveCorrected (o : BitVec 8) (err : BitVec 10) : BitVec 8 := clamp8 ((o.toNat : Int) + err.toInt)

/-- The next error, `o - q8(corr)`, in [-255, 255] and so a signed 10-bit number (44_dither.md R223, 10_state.md R40). -/
def naiveError (o corr : BitVec 8) : BitVec 10 := BitVec.ofInt 10 ((o.toNat : Int) - (q8 corr).toNat)

/-- One pixel of the naive pass (44_dither.md R223). -/
def naivePixel (xy : Int × Int) (s : State) : Except Fault State :=
  match readPixel s xy.1 xy.2 with
  | .error f => .error f
  | .ok o =>
    let corr := o.zipWith naiveCorrected s.dthErr
    .ok ((writePixel s xy.1 xy.2 corr).setDthErr (o.zipWith naiveError corr))

/-- The naive pass: error 0 at the start, every pixel in raster order, the error discarded at the end (44_dither.md R223,
10_state.md R40; log 10). -/
def naivePass (s : State) : Except Fault State :=
  match forEach naivePixel (raster 0 ((s.width.toNat : Int) - 1) 0 ((s.height.toNat : Int) - 1))
      (s.setDthErr ⟨0, 0, 0⟩) with
  | .ok t => .ok (t.setDthErr ⟨0, 0, 0⟩)
  | .error f => .error f

/-! ### The kernel filters -/

/-- One neighbour of a kernel: column offset, row offset, weight (44_dither.md R224). -/
structure Tap where
  dx : Int
  dy : Int
  weight : Int
deriving DecidableEq, Repr

/-- The Floyd-Steinberg kernel (44_dither.md R224). -/
def kernelFs : List Tap := [⟨1, 0, 7⟩, ⟨-1, 1, 3⟩, ⟨0, 1, 5⟩, ⟨1, 1, 1⟩]

/-- The Jarvis-Judice-Ninke kernel (44_dither.md R226, 90_conflicts.md C5). -/
def kernelJjn : List Tap :=
  [⟨1, 0, 7⟩, ⟨2, 0, 5⟩,
   ⟨-3, 1, 3⟩, ⟨-2, 1, 5⟩, ⟨-1, 1, 7⟩, ⟨0, 1, 5⟩, ⟨1, 1, 3⟩,
   ⟨-3, 2, 1⟩, ⟨-2, 2, 3⟩, ⟨-1, 2, 5⟩, ⟨0, 2, 3⟩, ⟨1, 2, 1⟩]

/-- The quantization error of a channel, `o - q8(o)` (44_dither.md R225). -/
def channelError (o : BitVec 8) : Int := (o.toNat : Int) - (q8 o).toNat

/-- `clamp(v + term)` on one channel (44_dither.md R221, R225). -/
def addClamp (v : BitVec 8) (term : Int) : BitVec 8 := clamp8 ((v.toNat : Int) + term)

/-- Adds `div(e * w, divisor)` to the neighbour of pixel `xy` that `tap` names (44_dither.md R225). -/
def diffuseTap (divisor : Nat) (e : Rgb Int) (xy : Int × Int) (tap : Tap) (s : State) : Except Fault State :=
  match readPixel s (xy.1 + tap.dx) (xy.2 + tap.dy) with
  | .error f => .error f
  | .ok p =>
    .ok (writePixel s (xy.1 + tap.dx) (xy.2 + tap.dy)
      (p.zipWith addClamp (e.map (fun c => diffDiv s.params.diffDiv (c * tap.weight) divisor))))

/-- One pixel of a kernel pass: its error, the pixel itself, then its neighbours (44_dither.md R225). -/
def kernelPixel (kernel : List Tap) (divisor : Nat) (xy : Int × Int) (s : State) : Except Fault State :=
  match readPixel s xy.1 xy.2 with
  | .error f => .error f
  | .ok o =>
    let e := o.map channelError
    forEach (diffuseTap divisor e xy) kernel (writePixel s xy.1 xy.2 (o.zipWith addClamp e))

/-- The Floyd-Steinberg pass, `x ∈ [1, W-3]`, `y ∈ [1, H-3]` (44_dither.md R224, R225). -/
def fsPass (s : State) : Except Fault State :=
  forEach (kernelPixel kernelFs 16) (raster 1 ((s.width.toNat : Int) - 3) 1 ((s.height.toNat : Int) - 3)) s

/-- The Jarvis-Judice-Ninke pass, `x ∈ [3, W-4]`, `y ∈ [0, H-4]` (44_dither.md R226, R227). -/
def jjnPass (s : State) : Except Fault State :=
  forEach (kernelPixel kernelJjn 48) (raster 3 ((s.width.toNat : Int) - 4) 0 ((s.height.toNat : Int) - 4)) s

/-! ### The commands -/

/-- A dither command: the capacity check, then the pass as one step (44_dither.md R220, 60_exceptions.md R254). -/
def ditherCommand (pass : State → Except Fault State) (s : State) : Answer :=
  if s.params.fbPixels < frameSize s then .next (raiseError .cmdErr s)
  else
    match pass s with
    | .ok t => .next t
    | .error f => .fault f

/-- `DITHER_NAIVE` (44_dither.md R223). -/
def execDitherNaive (s : State) : Answer := ditherCommand naivePass s

/-- `DITHER_FS` (44_dither.md R225). -/
def execDitherFs (s : State) : Answer := ditherCommand fsPass s

/-- `DITHER_JJN` (44_dither.md R227). -/
def execDitherJjn (s : State) : Answer := ditherCommand jjnPass s

end Sys2Proof.Machine
end

