-- ==== Sys2Proof/Machine/Palette.lean ====
section
/-! DEFINITION. The palette register file and the lookup unit (spec/41_palette.md). -/

namespace Sys2Proof.Machine

/-- One step of the scan: entry `i` replaces the best so far only if it is strictly nearer (41_palette.md R142). -/
def nearestStep (pal : Vector Color12 16) (t : Color12) (best : BitVec 4 × Nat) (i : BitVec 4) : BitVec 4 × Nat :=
  if distance (palGet pal i) t < best.2 then (i, distance (palGet pal i) t) else best

/-- `nearest(t)`: the linear scan over the entries in ascending order, starting from entry 0 (41_palette.md R142). -/
def nearest (pal : Vector Color12 16) (t : Color12) : BitVec 4 × Nat :=
  ([1, 2, 3, 4, 5, 6, 7, 8, 9, 10, 11, 12, 13, 14, 15] : List (BitVec 4)).foldl (nearestStep pal t)
    (0, distance (palGet pal 0) t)

/-- `PAL[i] <- unpack12(data[11:0])` (41_palette.md R141). -/
def execPalW (i : BitVec 4) (v : Word) (s : State) : Answer := .next (s.setPal (palSet s.pal i (color12Of v)))

/-- Returns `zext_32(pack12(PAL[i]))` (41_palette.md R141). -/
def execPalR (i : BitVec 4) (s : State) : Answer := .next (respond (wordOfColor12 (palGet s.pal i)) s)

/-- `LOOKUP_OUT <- {dist, index}` of the entry nearest to the written colour (41_palette.md R143). -/
def execLookupW (v : Word) (s : State) : Answer :=
  let best := nearest s.pal (color12Of v)
  .next (s.setLookupOut (packLookupOut best.2 best.1))

/-- Returns `LOOKUP_OUT` (41_palette.md R144). -/
def execLookupOutR (s : State) : Answer := .next (respond (s.lookupOut.setWidth 32) s)

end Sys2Proof.Machine
end

