-- ==== Sys2Proof/Machine/Encoder.lean ====
section
/-! DEFINITION. The encoder: one stateful pixel selection per `ENC_IN` write (spec/42_encoder.md). -/

namespace Sys2Proof.Machine

/-- A candidate: its operation, payload, resulting colour and distance to the target (42_encoder.md R162). -/
structure Candidate where
  op : Op
  pay : BitVec 4
  col : Color12
  d : Nat
deriving DecidableEq, Repr

/-- Candidate 0, `UsePalette`: the entry nearest to the target (42_encoder.md R162). -/
def paletteCandidate (pal : Vector Color12 16) (t : Color12) : Candidate :=
  let best := nearest pal t
  ⟨.usePalette, best.1, palGet pal best.1, best.2⟩

/-- Candidates 1 to 3, in their order: the previous colour with one channel taken from the target (42_encoder.md R162). -/
def modifyCandidates (p t : Color12) : List Candidate :=
  [⟨.modifyRed, t.r, ⟨t.r, p.g, p.b⟩, distance ⟨t.r, p.g, p.b⟩ t⟩,
   ⟨.modifyGreen, t.g, ⟨p.r, t.g, p.b⟩, distance ⟨p.r, t.g, p.b⟩ t⟩,
   ⟨.modifyBlue, t.b, ⟨p.r, p.g, t.b⟩, distance ⟨p.r, p.g, t.b⟩ t⟩]

/-- The better of two candidates: an equal distance keeps the earlier one (42_encoder.md R163). -/
def betterCandidate (best c : Candidate) : Candidate := if c.d < best.d then c else best

/-- The selection in the fixed order `UsePalette`, `ModifyRed`, `ModifyGreen`, `ModifyBlue` (42_encoder.md R163). -/
def selectCandidate (pal : Vector Color12 16) (p t : Color12) : Candidate :=
  (modifyCandidates p t).foldl betterCandidate (paletteCandidate pal t)

/-- The step forces `UsePalette`: `CTRL.FFC = 1` and the pixel is the first of its row (42_encoder.md R164). -/
def forcedFirst (s : State) : Bool := s.ffc && s.encCount.toNat % s.width.toNat == 0

/-- The candidate a step chooses for target `t` (42_encoder.md R163, R164). -/
def chooseCandidate (s : State) (t : Color12) : Candidate :=
  if forcedFirst s then paletteCandidate s.pal t else selectCandidate s.pal s.encPrev t

/-- The update of a successful step (42_encoder.md R165). -/
def encodeUpdate (c : Candidate) (s : State) : State :=
  (s.setEnc c.col (s.encCount + 1)).setEncOut (packEncOut c.d (encode6 c.op c.pay))

/-- One encoder step on the pixel `data[23:0]` (42_encoder.md R161 to R165, 60_exceptions.md R251). -/
def execEncInW (v : Word) (s : State) : Answer :=
  if frameSize s ≤ s.encCount.toNat then .next (raiseError .encOvf s)
  else .next (encodeUpdate (chooseCandidate s (quantize (rgb8Of v))) s)

/-- `ENC_RESET`: `ENC_PREV <- (0, 0, 0)`, `ENC_COUNT <- 0` (42_encoder.md R166). -/
def execEncReset (s : State) : Answer := .next (s.setEnc ⟨0, 0, 0⟩ 0)

/-- Returns `ENC_OUT` (42_encoder.md R167). -/
def execEncOutR (s : State) : Answer := .next (respond (s.encOut.setWidth 32) s)

/-- Returns `zext_32(pack12(ENC_PREV))` (42_encoder.md R167). -/
def execEncPrevR (s : State) : Answer := .next (respond (wordOfColor12 s.encPrev) s)

/-- Returns `ENC_COUNT` (42_encoder.md R167). -/
def execEncCountR (s : State) : Answer := .next (respond s.encCount s)

end Sys2Proof.Machine
end

