-- ==== Sys2Proof/Machine/Command.lean ====
section
/-! DEFINITION. The `CMD` register: the command its data selects, `NOP` and the reserved codes (spec/10_state.md R23;
spec/30_encoding.md R95, R96). The other commands stand with their units. -/

namespace Sys2Proof.Machine

/-- `NOP`: no effect (30_encoding.md R95). -/
def execNop (s : State) : Answer := .next s

/-- Code 0x7, reserved: raises `CMD_ERR` (30_encoding.md R96, 60_exceptions.md R254). -/
def execCmdReserved7 (s : State) : Answer := .next (raiseError .cmdErr s)

/-- Codes 0x8 to 0xF, reserved: raise `CMD_ERR` (30_encoding.md R96, 60_exceptions.md R254). -/
def execCmdReserved8F (_code : BitVec 4) (s : State) : Answer := .next (raiseError .cmdErr s)

/-- A write of `CMD` performs the command of code `data[3:0]` (10_state.md R23, 30_encoding.md R95). -/
def execCmdW (v : Word) (s : State) : Answer :=
  match cmdCode v with
  | 0x0#4 => execNop s
  | 0x1#4 => execEncReset s
  | 0x2#4 => execDecReset s
  | 0x3#4 => execDecCheck s
  | 0x4#4 => execDitherNaive s
  | 0x5#4 => execDitherFs s
  | 0x6#4 => execDitherJjn s
  | 0x7#4 => execCmdReserved7 s
  | c => execCmdReserved8F c s

end Sys2Proof.Machine
end

