-- ==== Sys2Proof/Machine/FrameBuffer.lean ====
section
/-! DEFINITION. The host's accesses to the frame-buffer window (spec/20_memory.md R69, R70). -/

namespace Sys2Proof.Machine

/-- `FB[n] <- unpack24(data[23:0])` for `n < FB_PIXELS`, else ignored (20_memory.md R69, R70). -/
def execFbW (n : BitVec 20) (v : Word) (s : State) : Answer :=
  if n.toNat < s.params.fbPixels then .next (s.setMem (fbWrite s.mem n.toNat (rgb8Of v)))
  else .next s

/-- Returns `FB[n]` for `n < FB_PIXELS`, a fault if that word is unwritten; beyond the capacity returns 0
(20_memory.md R69, R70). -/
def execFbR (n : BitVec 20) (s : State) : Answer :=
  if n.toNat < s.params.fbPixels then
    match fbRead s.mem n.toNat with
    | some p => .next (respond (wordOfRgb8 p) s)
    | none => .fault (.unwrittenFrameBuffer n.toNat)
  else .next (respond 0 s)

end Sys2Proof.Machine
end

