-- ==== Sys2Proof/Machine/Registers.lean ====
section
/-! DEFINITION. The plain register accesses: `CTRL`, `STATUS`, `WIDTH`, `HEIGHT`, `FB_SIZE`, the reads of write-only registers,
the writes of read-only registers and the reserved space (spec/10_state.md R22 to R37; spec/20_memory.md R65 to R67). -/

namespace Sys2Proof.Machine

/-- `CTRL.FFC <- data[0]` (10_state.md R22). -/
def execCtrlW (v : Word) (s : State) : Answer := .next (s.setFfc (v.getLsbD 0))

/-- Returns `zext_32(CTRL.FFC)` (10_state.md R22). -/
def execCtrlR (s : State) : Answer := .next (respond ((BitVec.ofBool s.ffc).setWidth 32) s)

/-- Returns the four sticky error bits (10_state.md R24); the read clears nothing (60_exceptions.md R256). -/
def execStatusR (s : State) : Answer := .next (respond (s.status.setWidth 32) s)

/-- Clears `STATUS[k]` for each `k` with `data[k] = 1` (60_exceptions.md R256). -/
def execStatusW1C (v : Word) (s : State) : Answer := .next (s.setStatus (statusClear v s.status))

/-- `WIDTH <- data[15:0]` (10_state.md R25). -/
def execWidthW (v : Word) (s : State) : Answer := .next (s.setWidth (v.extractLsb' 0 16))

/-- Returns `WIDTH` (10_state.md R25). -/
def execWidthR (s : State) : Answer := .next (respond (s.width.setWidth 32) s)

/-- `HEIGHT <- data[15:0]` (10_state.md R26). -/
def execHeightW (v : Word) (s : State) : Answer := .next (s.setHeight (v.extractLsb' 0 16))

/-- Returns `HEIGHT` (10_state.md R26). -/
def execHeightR (s : State) : Answer := .next (respond (s.height.setWidth 32) s)

/-- Returns `FB_PIXELS` (10_state.md R37). -/
def execFbSizeR (s : State) : Answer := .next (respond (BitVec.ofNat 32 s.params.fbPixels) s)

/-! ### Reads of write-only registers return 0 and have no effect (20_memory.md R67) -/

/-- `CMD` is write-only (20_memory.md R67, 10_state.md R23). -/
def execCmdR (s : State) : Answer := .next (respond 0 s)

/-- `ENC_IN` is write-only (20_memory.md R67, 10_state.md R27). -/
def execEncInR (s : State) : Answer := .next (respond 0 s)

/-- `DEC_IN` is write-only (20_memory.md R67, 10_state.md R31). -/
def execDecInR (s : State) : Answer := .next (respond 0 s)

/-- `LOOKUP` is write-only (20_memory.md R67, 10_state.md R35). -/
def execLookupR (s : State) : Answer := .next (respond 0 s)

/-! ### Writes of read-only registers are ignored (20_memory.md R67) -/

/-- The write is ignored (20_memory.md R67, 10_state.md R28). -/
def execEncOutW (_v : Word) (s : State) : Answer := .next s

/-- The write is ignored (20_memory.md R67, 10_state.md R29). -/
def execEncPrevW (_v : Word) (s : State) : Answer := .next s

/-- The write is ignored (20_memory.md R67, 10_state.md R30). -/
def execEncCountW (_v : Word) (s : State) : Answer := .next s

/-- The write is ignored (20_memory.md R67, 10_state.md R32). -/
def execDecOutW (_v : Word) (s : State) : Answer := .next s

/-- The write is ignored (20_memory.md R67, 10_state.md R33). -/
def execDecPrevW (_v : Word) (s : State) : Answer := .next s

/-- The write is ignored (20_memory.md R67, 10_state.md R34). -/
def execDecCountW (_v : Word) (s : State) : Answer := .next s

/-- The write is ignored (20_memory.md R67, 10_state.md R36). -/
def execLookupOutW (_v : Word) (s : State) : Answer := .next s

/-- The write is ignored (20_memory.md R67, 10_state.md R37). -/
def execFbSizeW (_v : Word) (s : State) : Answer := .next s

/-! ### Reserved and unmapped offsets of the register space (20_memory.md R65) -/

/-- Returns 0 (20_memory.md R65). -/
def execReservedR (_k : BitVec 20) (s : State) : Answer := .next (respond 0 s)

/-- The write is ignored (20_memory.md R65). -/
def execReservedW (_k : BitVec 20) (_v : Word) (s : State) : Answer := .next s

end Sys2Proof.Machine
end

