-- ==== Sys2Proof/Machine/Dispatch.lean ====
section
/-! DEFINITION. One arm per instruction: each calls its own meaning. -/

namespace Sys2Proof.Machine

def exec (i : Instr) (s : State) : Host.Outcome State Fault Refusal :=
  match i with
  | .usepal n => Sys2Proof.Machine.execUsepal n s
  | .modr n => Sys2Proof.Machine.execModr n s
  | .modg n => Sys2Proof.Machine.execModg n s
  | .modb n => Sys2Proof.Machine.execModb n s
  | .nop => Sys2Proof.Machine.execNop s
  | .encReset => Sys2Proof.Machine.execEncReset s
  | .decReset => Sys2Proof.Machine.execDecReset s
  | .decCheck => Sys2Proof.Machine.execDecCheck s
  | .ditherNaive => Sys2Proof.Machine.execDitherNaive s
  | .ditherFs => Sys2Proof.Machine.execDitherFs s
  | .ditherJjn => Sys2Proof.Machine.execDitherJjn s
  | .cmdReserved7 => Sys2Proof.Machine.execCmdReserved7 s
  | .cmdReserved8F code => Sys2Proof.Machine.execCmdReserved8F code s
  | .ctrlW v => Sys2Proof.Machine.execCtrlW v s
  | .ctrlR => Sys2Proof.Machine.execCtrlR s
  | .cmdW v => Sys2Proof.Machine.execCmdW v s
  | .statusR => Sys2Proof.Machine.execStatusR s
  | .statusW1C v => Sys2Proof.Machine.execStatusW1C v s
  | .widthW v => Sys2Proof.Machine.execWidthW v s
  | .widthR => Sys2Proof.Machine.execWidthR s
  | .heightW v => Sys2Proof.Machine.execHeightW v s
  | .heightR => Sys2Proof.Machine.execHeightR s
  | .encInW v => Sys2Proof.Machine.execEncInW v s
  | .encOutR => Sys2Proof.Machine.execEncOutR s
  | .encPrevR => Sys2Proof.Machine.execEncPrevR s
  | .encCountR => Sys2Proof.Machine.execEncCountR s
  | .decInW v => Sys2Proof.Machine.execDecInW v s
  | .decOutR => Sys2Proof.Machine.execDecOutR s
  | .decPrevR => Sys2Proof.Machine.execDecPrevR s
  | .decCountR => Sys2Proof.Machine.execDecCountR s
  | .lookupW v => Sys2Proof.Machine.execLookupW v s
  | .lookupOutR => Sys2Proof.Machine.execLookupOutR s
  | .fbSizeR => Sys2Proof.Machine.execFbSizeR s
  | .palW k v => Sys2Proof.Machine.execPalW k v s
  | .palR k => Sys2Proof.Machine.execPalR k s
  | .fbW n v => Sys2Proof.Machine.execFbW n v s
  | .fbR n => Sys2Proof.Machine.execFbR n s
  | .cmdR => Sys2Proof.Machine.execCmdR s
  | .encInR => Sys2Proof.Machine.execEncInR s
  | .decInR => Sys2Proof.Machine.execDecInR s
  | .lookupR => Sys2Proof.Machine.execLookupR s
  | .encOutW v => Sys2Proof.Machine.execEncOutW v s
  | .encPrevW v => Sys2Proof.Machine.execEncPrevW v s
  | .encCountW v => Sys2Proof.Machine.execEncCountW v s
  | .decOutW v => Sys2Proof.Machine.execDecOutW v s
  | .decPrevW v => Sys2Proof.Machine.execDecPrevW v s
  | .decCountW v => Sys2Proof.Machine.execDecCountW v s
  | .lookupOutW v => Sys2Proof.Machine.execLookupOutW v s
  | .fbSizeW v => Sys2Proof.Machine.execFbSizeW v s
  | .reservedR k => Sys2Proof.Machine.execReservedR k s
  | .reservedW k v => Sys2Proof.Machine.execReservedW k v s

end Sys2Proof.Machine
end

