-- ==== Sys2Proof/Machine/Step.lean ====
section
/-! DEFINITION. One step of the machine: the host's next event (spec/20_memory.md R60, R61, R71). -/

namespace Sys2Proof.Machine

/-- One step. With no event to come the block does nothing (60_exceptions.md R267). A host access is decoded and its
instruction executed as one indivisible step (20_memory.md R61); one that is not an aligned 32-bit access is refused
(20_memory.md R62). -/
def step (s : State) : Host.Outcome State Fault Refusal :=
  match s.port with
  | [] => .next s
  | .blockReset :: rest => .next (blockReset (s.setPort rest))
  | .access a :: rest =>
    match decodeAccess a with
    | .error r => .refused (refusalOf r)
    | .ok i => exec i (s.setPort rest)

/-- `s` with the access that carries a word of the opcode table as the next event (log 13). -/
def State.withFetchWord (s : State) (nbits w : Nat) : State :=
  s.setPort (.access (carrier (tableCode nbits w)) :: s.port)

end Sys2Proof.Machine
end

