-- ==== Sys2Proof/Safety.lean ====
section
/-! DEFINITION. What counts as a safe state, and the vocabulary the claims use: it is written on integers, from the spec's
formulas, and not from the model's own functions. -/

namespace Sys2Proof.Safety

open Sys2Proof.Machine

/-! ### Frame-buffer words -/

/-- Frame-buffer word `n` has been written since reset (20_memory.md R69). -/
def Written (s : State) (n : Nat) : Prop := ∃ p, fbRead s.mem n = some p

/-- Every word of the current raster has been written (70_reset_and_hazards.md R288). -/
def RasterWritten (s : State) : Prop := ∀ n, n < s.width.toNat * s.height.toNat → Written s n

/-- The raster fits the frame buffer (44_dither.md R220). -/
def RasterFits (s : State) : Prop := s.width.toNat * s.height.toNat ≤ s.params.fbPixels

/-- Pixel `(x, y)` of the raster has been written. -/
def PixelWritten (s : State) (x y : Int) : Prop := Written s (y * (s.width.toNat : Int) + x).toNat

/-- Every pixel that a kernel pass over `x ∈ [x0, x1]`, `y ∈ [y0, y1]` reads has been written: the processed pixels and their
neighbours (70_reset_and_hazards.md R288). -/
def KernelReadsWritten (kernel : List (Int × Int × Int)) (x0 x1 y0 y1 : Int) (s : State) : Prop :=
  ∀ x y : Int, x0 ≤ x → x ≤ x1 → y0 ≤ y → y ≤ y1 →
    PixelWritten s x y ∧ ∀ k ∈ kernel, PixelWritten s (x + k.1) (y + k.2.1)

/-- Every byte outside words `0 .. W*H-1` of the frame buffer, and the reserved lane of every word, reads as before
(44_dither.md R220, R229; 10_state.md R39). -/
def UnchangedOutsideRaster (s t : State) : Prop :=
  ∀ a : Nat, (a < 0x400000 ∨ 0x400000 + 4 * (s.width.toNat * s.height.toNat) ≤ a ∨ a % 4 = 3) →
    t.mem.read a = s.mem.read a

/-- The reset values of 10_state.md R21 and 70_reset_and_hazards.md R280: registers 0, `PAL[i] = RESET_PALETTE[i]`, every
frame-buffer word unwritten. -/
def IsResetState (r : State) : Prop :=
  r.ffc = false ∧ r.status = 0 ∧ r.width = 0 ∧ r.height = 0 ∧ r.encPrev = ⟨0, 0, 0⟩ ∧ r.decPrev = ⟨0, 0, 0⟩ ∧
  r.encCount = 0 ∧ r.decCount = 0 ∧ r.encOut = 0 ∧ r.decOut = ⟨0, 0, 0⟩ ∧ r.lookupOut = 0 ∧
  (∀ i : BitVec 4, palGet r.pal i = palGet r.params.resetPalette i) ∧ ∀ n, ¬ Written r n

/-! ### Colours -/

/-- The squared difference of two channels (40_color.md R122). -/
def chanSq (x y : BitVec 4) : Int := ((x.toNat : Int) - (y.toNat : Int)) ^ 2

/-- The distance of two colours, on integers (40_color.md R122). -/
def colourDist (a b : Color12) : Int := chanSq a.r b.r + chanSq a.g b.g + chanSq a.b b.b

/-- `i` is the least index of an entry nearest to `t` (41_palette.md R142). -/
def IsNearest (pal : Vector Color12 16) (t : Color12) (i : BitVec 4) : Prop :=
  ∀ j : BitVec 4, colourDist (palGet pal i) t ≤ colourDist (palGet pal j) t ∧
    (j.toNat < i.toNat → colourDist (palGet pal i) t < colourDist (palGet pal j) t)

/-- The quantized pixel of an `ENC_IN` write: bits 23..20, 15..12 and 7..4 of the data (40_color.md R120, 42_encoder.md R161). -/
def targetOf (v : Word) : Color12 :=
  ⟨BitVec.ofNat 4 (v.toNat / 2 ^ 20), BitVec.ofNat 4 (v.toNat / 2 ^ 12), BitVec.ofNat 4 (v.toNat / 2 ^ 4)⟩

/-- The four rows of the candidate table with palette index `i`: operation number, payload, resulting colour
(42_encoder.md R162, 30_encoding.md R92). -/
def candidateTable (s : State) (t : Color12) (i : BitVec 4) : List (Nat × BitVec 4 × Color12) :=
  [(0, i, palGet s.pal i),
   (1, t.r, ⟨t.r, s.encPrev.g, s.encPrev.b⟩),
   (2, t.g, ⟨s.encPrev.r, t.g, s.encPrev.b⟩),
   (3, t.b, ⟨s.encPrev.r, s.encPrev.g, t.b⟩)]

/-- The state a successful encoder step leaves when it emits operation `op`, payload `pay` and colour `col` for target `t`
(42_encoder.md R165; 10_state.md R28 for the fields of `ENC_OUT`). -/
def encoded (s : State) (t : Color12) (op : Nat) (pay : BitVec 4) (col : Color12) : State :=
  { s with
    encPrev := col
    encCount := BitVec.ofNat 32 (s.encCount.toNat + 1)
    encOut := BitVec.ofNat 16 ((colourDist col t).toNat * 64 + op * 16 + pay.toNat) }

/-- One channel expanded: 17 times its value (40_color.md R121). -/
def expanded (c : Color12) : Rgb8 :=
  ⟨BitVec.ofNat 8 (17 * c.r.toNat), BitVec.ofNat 8 (17 * c.g.toNat), BitVec.ofNat 8 (17 * c.b.toNat)⟩

/-- The state a successful decoder step leaves when it reconstructs `c` (43_decoder.md R196). -/
def decoded (s : State) (c : Color12) : State :=
  { s with decPrev := c, decCount := BitVec.ofNat 32 (s.decCount.toNat + 1), decOut := expanded c }

/-- The number that a `Color12` register reads as (30_encoding.md R93). -/
def color12Number (c : Color12) : Nat := c.r.toNat * 256 + c.g.toNat * 16 + c.b.toNat

/-- The number that an `Rgb8` word reads as (30_encoding.md R94). -/
def rgb8Number (p : Rgb8) : Nat := p.r.toNat * 65536 + p.g.toNat * 256 + p.b.toNat

/-- `s` with `n` as the word the last read returned. -/
def returning (s : State) (n : Nat) : State := { s with readData := BitVec.ofNat 32 n }

/-! ### Kinds of instruction -/

/-- The instructions that are a host read (30_encoding.md R90). -/
def isHostRead : Instr → Bool
  | .ctrlR | .statusR | .widthR | .heightR | .encOutR | .encPrevR | .encCountR | .decOutR | .decPrevR | .decCountR
  | .lookupOutR | .fbSizeR | .palR _ | .fbR _ | .cmdR | .encInR | .decInR | .lookupR | .reservedR _ => true
  | _ => false

/-- The data of a `CMD` write selects a dither command (30_encoding.md R95). -/
def isDitherCode (v : Word) : Bool := v.toNat % 16 == 4 || v.toNat % 16 == 5 || v.toNat % 16 == 6

/-- The instructions that run a dither pass. -/
def isDither : Instr → Bool
  | .ditherNaive | .ditherFs | .ditherJjn => true
  | .cmdW v => isDitherCode v
  | _ => false

/-! ### The dither pseudocode on one channel -/

/-- `clamp(v)` on integers (44_dither.md R221). -/
def clampInt (v : Int) : Int := min 255 (max 0 v)

/-- `o - q8(o)` on integers (40_color.md R123). -/
def errorInt (o : Int) : Int := o - 17 * (o / 16)

/-- `div(a, d)` on integers (44_dither.md R222): toward zero, or toward minus infinity. -/
def divInt (mode : DiffDiv) (a d : Int) : Int :=
  match mode with
  | .trunc => if 0 ≤ a then a / d else -((-a) / d)
  | .floor => a / d

/-- One channel of a raster, with one pixel replaced. -/
def setAt (f : Int → Int → Int) (x y v : Int) : Int → Int → Int :=
  fun x' y' => if x' = x ∧ y' = y then v else f x' y'

/-- The body of R225's inner loop on one channel: the pixel, then its neighbours `(dx, dy, w)`. -/
def diffuse (mode : DiffDiv) (kernel : List (Int × Int × Int)) (d : Int) (x y : Int) (f : Int → Int → Int) :
    Int → Int → Int :=
  kernel.foldl
    (fun g k => setAt g (x + k.1) (y + k.2.1)
      (clampInt (g (x + k.1) (y + k.2.1) + divInt mode (errorInt (f x y) * k.2.2) d)))
    (setAt f x y (clampInt (f x y + errorInt (f x y))))

/-- `n` pixels of row `y` from column `x` on, left to right. -/
def diffuseRow (mode : DiffDiv) (kernel : List (Int × Int × Int)) (d : Int) (y : Int) :
    Nat → Int → (Int → Int → Int) → Int → Int → Int
  | 0, _, f => f
  | n + 1, x, f => diffuseRow mode kernel d y n (x + 1) (diffuse mode kernel d x y f)

/-- `m` rows from row `y` on, each of `n` pixels from column `x0` on (44_dither.md R225). -/
def diffuseRows (mode : DiffDiv) (kernel : List (Int × Int × Int)) (d : Int) (x0 : Int) (n : Nat) :
    Nat → Int → (Int → Int → Int) → Int → Int → Int
  | 0, _, f => f
  | m + 1, y, f => diffuseRows mode kernel d x0 n m (y + 1) (diffuseRow mode kernel d y n x0 f)

/-- The Floyd-Steinberg neighbours (44_dither.md R224). -/
def fsNeighbours : List (Int × Int × Int) := [(1, 0, 7), (-1, 1, 3), (0, 1, 5), (1, 1, 1)]

/-- The Jarvis-Judice-Ninke neighbours (44_dither.md R226). -/
def jjnNeighbours : List (Int × Int × Int) :=
  [(1, 0, 7), (2, 0, 5),
   (-3, 1, 3), (-2, 1, 5), (-1, 1, 7), (0, 1, 5), (1, 1, 3),
   (-3, 2, 1), (-2, 2, 3), (-1, 2, 5), (0, 2, 3), (1, 2, 1)]

/-- Channel `c` of pixel `(x, y)` of the frame buffer (0 where it is unwritten). -/
def channelAt (s : State) (c : Channel) (x y : Int) : Int :=
  match fbRead s.mem (y * (s.width.toNat : Int) + x).toNat with
  | some p => ((p.chan c).toNat : Int)
  | none => 0

/-! ### Streams -/

/-- The `DEC_IN` data that presents the word the encoder left in `ENC_OUT.WORD` (43_decoder.md R190, 10_state.md R28). -/
def wordOut (s : State) : Word := BitVec.ofNat 32 (s.encOut.toNat % 64)

/-- The host encodes each pixel with an `ENC_IN` write and at once decodes the word it left with a `DEC_IN` write. The answer is
the pairs (`ENC_PREV`, `DEC_OUT`) after each pixel and the last state; none if an access does not complete. -/
def codecRun : List Word → State → Option (List (Color12 × Rgb8) × State)
  | [], s => some ([], s)
  | v :: vs, s =>
    match exec (.encInW v) s with
    | .next t =>
      match exec (.decInW (wordOut t)) t with
      | .next u =>
        match codecRun vs u with
        | some (outs, w) => some ((u.encPrev, u.decOut) :: outs, w)
        | none => none
      | _ => none
    | _ => none

/-! ### The invariant -/

/-- What holds of every state that a run reaches. -/
structure Inv (s : State) : Prop where
  /-- The memory is in canonical form. -/
  memCanonical : s.mem.wf = true
  /-- Only the three byte lanes of the words below the capacity hold a byte (20_memory.md R64, R70). -/
  memInFrameBuffer : ∀ a b, s.mem.read a = some b → ∃ n, n < s.params.fbPixels ∧ fbAddr n ≤ a ∧ a ≤ fbAddr n + 2
  /-- A word is written whole or not at all (20_memory.md R61, R69). -/
  wordsWhole : ∀ n a b, fbAddr n ≤ a → a ≤ fbAddr n + 2 → s.mem.read a = some b → Written s n
  /-- `DTH.err` is 0 between accesses (10_state.md R40; log 10). -/
  errIdle : s.dthErr = ⟨0, 0, 0⟩
  /-- `ENC_OUT.DIST` is at most 675 (10_state.md R28). -/
  encDist : s.encOut.toNat / 64 ≤ 675
  /-- `LOOKUP_OUT.DIST` is at most 675 (10_state.md R36). -/
  lookupDist : s.lookupOut.toNat / 16 ≤ 675
  /-- `ENC_COUNT` never passes the largest frame, so it never wraps (10_state.md R26, R30). -/
  encCountBound : s.encCount.toNat ≤ 4294836225
  /-- `DEC_COUNT` never passes the largest frame, so it never wraps (10_state.md R26, R34). -/
  decCountBound : s.decCount.toNat ≤ 4294836225
  /-- Every decoded channel is a multiple of 17 (43_decoder.md R196). -/
  decOutExpanded : s.decOut.r.toNat % 17 = 0 ∧ s.decOut.g.toNat % 17 = 0 ∧ s.decOut.b.toNat % 17 = 0
  /-- The capacity is 1 to 2^20 (00_scope.md R6). -/
  paramsLegal : s.params.Legal

end Sys2Proof.Safety
end

