-- ==== Sys2Proof/Certificates/Slice0/Obligations.lean ====
section
/-! DEFINITION. The statements for the provers. Each docstring names the rules it formalises; "the model's choice" marks a clause
that rests on a log entry and not on a rule. -/

open Sys2Proof Sys2Proof.Machine Sys2Proof.Safety

/-! ### Reset, steps and decoding -/

/-- 70_reset_and_hazards.md R280: what reset leaves, at `State.reset` and after the platform's reset event in any state, which always
completes. That the event keeps the parameters and the events still to come is the model's choice (log 1, 3, 11). -/
def Obligations.ResetLeavesTheResetValues : Prop :=
  IsResetState State.reset ∧
  (∀ i : BitVec 4, palGet State.reset.pal i = Config.resetPalette i) ∧
  ∀ (s : State) (rest : List HostEvent), s.port = .blockReset :: rest →
    ∃ r, step s = .next r ∧ IsResetState r ∧ r.port = rest ∧ r.params = s.params

/-- 20_memory.md R60, R61, R71: a step takes the host's oldest access and runs the instruction it decodes to. -/
def Obligations.StepRunsTheDecodedAccess : Prop :=
  ∀ (s : State) (a : Access) (rest : List HostEvent) (i : Instr), s.port = .access a :: rest →
    decode (.mmio a) = .ok i → step s = exec i { s with port := rest }

/-- 20_memory.md R60, 60_exceptions.md R267: with no access to come the block does nothing. -/
def Obligations.IdleStepChangesNothing : Prop :=
  ∀ s : State, s.port = [] → step s = .next s

/-- 20_memory.md R62: a step refuses an access exactly when it is not 4 bytes wide or not at a multiple of 4. -/
def Obligations.StepRefusesExactlyNarrowOrMisaligned : Prop :=
  ∀ (s : State) (rest : List HostEvent) (off : BitVec 23) (size : Nat) (v : Word),
    (s.port = .access (.read off size) :: rest ∨ s.port = .access (.write off size v) :: rest) →
    ((∃ r, step s = .refused r) ↔ (size ≠ 4 ∨ off.toNat % 4 ≠ 0))

/-- 30_encoding.md R90 to R95, 10_state.md R21: decoding what the encoder gives for a well-formed instruction is that
instruction, and two well-formed instructions never share a code. -/
def Obligations.DecodeOfEncodeIsTheInstruction : Prop :=
  (∀ i : Instr, i.wellFormed = true → decode (encode i) = .ok i) ∧
  (∀ i j : Instr, i.wellFormed = true → j.wellFormed = true → encode i = encode j → i = j)

/-- 20_memory.md R62, R64, 10_state.md R21: every aligned 32-bit access has exactly one instruction, which is well formed and
encodes to that access: no bit of the offset or the data is dropped. -/
def Obligations.EncodeOfDecodedAccessIsTheAccess : Prop :=
  ∀ (off : BitVec 23) (v : Word), off.toNat % 4 = 0 →
    (∃ i, decode (.mmio (.read off 4)) = .ok i ∧ i.wellFormed = true ∧ encode i = .mmio (.read off 4)) ∧
    (∃ i, decode (.mmio (.write off 4 v)) = .ok i ∧ i.wellFormed = true ∧ encode i = .mmio (.write off 4 v))

/-- 30_encoding.md R92, R97: the four operations and every payload; all 64 words are legal. -/
def Obligations.EveryHam6WordIsLegal : Prop :=
  (∀ p : BitVec 4,
    decode (.ham6 (BitVec.ofNat 6 (0 * 16 + p.toNat))) = .ok (.usepal p) ∧
    decode (.ham6 (BitVec.ofNat 6 (1 * 16 + p.toNat))) = .ok (.modr p) ∧
    decode (.ham6 (BitVec.ofNat 6 (2 * 16 + p.toNat))) = .ok (.modg p) ∧
    decode (.ham6 (BitVec.ofNat 6 (3 * 16 + p.toNat))) = .ok (.modb p)) ∧
  (∀ w : BitVec 6, ∃ i, decode (.ham6 w) = .ok i ∧ i.wellFormed = true ∧ encode i = .ham6 w)

/-- 30_encoding.md R99, R95, 10_state.md R21: some codes written out from the spec decode to what they stand for. -/
def Obligations.WordsFromTheSpecDecode : Prop :=
  decode (.ham6 0b000011) = .ok (.usepal 3) ∧ decode (.ham6 0b011111) = .ok (.modr 15) ∧
  decode (.ham6 0b100000) = .ok (.modg 0) ∧ decode (.ham6 0b111000) = .ok (.modb 8) ∧
  decode (.cmd 0x5) = .ok .ditherFs ∧ decode (.cmd 0x11) = .ok .encReset ∧ decode (.cmd 0xF) = .ok (.cmdReserved8F 0xF) ∧
  decode (.mmio (.write 0x000014 4 0x112233)) = .ok (.encInW 0x112233) ∧
  decode (.mmio (.read 0x000038 4)) = .ok .lookupOutR ∧ decode (.mmio (.write 0x00007C 4 0xABC)) = .ok (.palW 15 0xABC) ∧
  decode (.mmio (.read 0x400014 4)) = .ok (.fbR 5) ∧ decode (.mmio (.read 0x000080 4)) = .ok (.reservedR 0x20)

/-- 30_encoding.md R95: the command a `CMD` write performs is chosen by `data[3:0]` alone; `NOP` has no effect. -/
def Obligations.CommandIsChosenByTheLowFourBits : Prop :=
  ∀ (v : Word) (s : State),
    exec .nop s = .next s ∧
    (v.toNat % 16 = 0 → decode (.cmd v) = .ok .nop ∧ exec (.cmdW v) s = .next s) ∧
    (v.toNat % 16 = 1 → decode (.cmd v) = .ok .encReset ∧ exec (.cmdW v) s = exec .encReset s) ∧
    (v.toNat % 16 = 2 → decode (.cmd v) = .ok .decReset ∧ exec (.cmdW v) s = exec .decReset s) ∧
    (v.toNat % 16 = 3 → decode (.cmd v) = .ok .decCheck ∧ exec (.cmdW v) s = exec .decCheck s) ∧
    (v.toNat % 16 = 4 → decode (.cmd v) = .ok .ditherNaive ∧ exec (.cmdW v) s = exec .ditherNaive s) ∧
    (v.toNat % 16 = 5 → decode (.cmd v) = .ok .ditherFs ∧ exec (.cmdW v) s = exec .ditherFs s) ∧
    (v.toNat % 16 = 6 → decode (.cmd v) = .ok .ditherJjn ∧ exec (.cmdW v) s = exec .ditherJjn s) ∧
    (v.toNat % 16 = 7 → decode (.cmd v) = .ok .cmdReserved7 ∧ exec (.cmdW v) s = exec .cmdReserved7 s) ∧
    (8 ≤ v.toNat % 16 → decode (.cmd v) = .ok (.cmdReserved8F (BitVec.ofNat 4 v.toNat)) ∧
      exec (.cmdW v) s = exec (.cmdReserved8F (BitVec.ofNat 4 v.toNat)) s)

/-! ### Registers -/

/-- 10_state.md R22, R25, R26, 20_memory.md R66: a write stores its field and nothing else. -/
def Obligations.ControlAndDimensionWritesStoreTheirField : Prop :=
  ∀ (v : Word) (s : State),
    exec (.ctrlW v) s = .next { s with ffc := decide (v.toNat % 2 = 1) } ∧
    exec (.widthW v) s = .next { s with width := BitVec.ofNat 16 v.toNat } ∧
    exec (.heightW v) s = .next { s with height := BitVec.ofNat 16 v.toNat }

/-- 10_state.md R22, R24, R25, R26: the reads of `CTRL`, `STATUS`, `WIDTH` and `HEIGHT`. -/
def Obligations.ControlStatusAndDimensionReads : Prop :=
  ∀ s : State,
    exec .ctrlR s = .next (returning s (if s.ffc then 1 else 0)) ∧
    exec .statusR s = .next (returning s s.status.toNat) ∧
    exec .widthR s = .next (returning s s.width.toNat) ∧
    exec .heightR s = .next (returning s s.height.toNat)

/-- 60_exceptions.md R256: write one to clear; a read clears nothing; no other instruction clears a bit. -/
def Obligations.StatusBitsAreStickyUntilWrittenOne : Prop :=
  (∀ (v : Word) (s : State), ∃ t, exec (.statusW1C v) s = .next t ∧ t = { s with status := t.status } ∧
    ∀ k : Nat, k < 4 → t.status.getLsbD k = (s.status.getLsbD k && !v.getLsbD k)) ∧
  (∀ s : State, ∃ t, exec .statusR s = .next t ∧ t.status = s.status) ∧
  (∀ (i : Instr) (s t : State), (∀ v, i ≠ .statusW1C v) → exec i s = .next t →
    ∀ k : Nat, s.status.getLsbD k = true → t.status.getLsbD k = true)

/-- 10_state.md R37: `FB_SIZE` reads the constant `FB_PIXELS`, which no instruction changes, and ignores writes. -/
def Obligations.FbSizeReadsAConstant : Prop :=
  (∀ (v : Word) (s : State), exec .fbSizeR s = .next (returning s s.params.fbPixels) ∧ exec (.fbSizeW v) s = .next s) ∧
  (∀ (i : Instr) (s t : State), exec i s = .next t → t.params = s.params)

/-- 20_memory.md R67: reads of write-only registers return 0 and writes of read-only registers are ignored; `STATUS` is read-only
but for write-one-to-clear. -/
def Obligations.WriteOnlyReadsZeroAndReadOnlyIgnoresWrites : Prop :=
  ∀ (v : Word) (s : State),
    (∀ i : Instr, i = .cmdR ∨ i = .encInR ∨ i = .decInR ∨ i = .lookupR → exec i s = .next (returning s 0)) ∧
    (∀ i : Instr, i = .encOutW v ∨ i = .encPrevW v ∨ i = .encCountW v ∨ i = .decOutW v ∨ i = .decPrevW v ∨
      i = .decCountW v ∨ i = .lookupOutW v ∨ i = .fbSizeW v → exec i s = .next s) ∧
    exec (.statusW1C v) s = .next { s with status := s.status &&& ~~~(BitVec.ofNat 4 v.toNat) }

/-- 20_memory.md R65: reserved and unmapped offsets of the register space read 0 and ignore writes. -/
def Obligations.ReservedSpaceReadsZeroAndIgnoresWrites : Prop :=
  (∀ (off : BitVec 23) (v : Word) (s : State) (rest : List HostEvent), off.toNat % 4 = 0 → 0x80 ≤ off.toNat →
    off.toNat ≤ 0x3FFFFF →
    (s.port = .access (.read off 4) :: rest → step s = .next { s with port := rest, readData := 0 }) ∧
    (s.port = .access (.write off 4 v) :: rest → step s = .next { s with port := rest })) ∧
  (∀ (k : BitVec 20) (v : Word) (s : State),
    exec (.reservedR k) s = .next (returning s 0) ∧ exec (.reservedW k v) s = .next s)

/-! ### The frame buffer -/

/-- 20_memory.md R70: the frame-buffer window at or beyond word `FB_PIXELS` reads 0 and ignores writes, as an instruction and
as an access at its offsets. -/
def Obligations.BeyondCapacityReadsZeroAndIgnoresWrites : Prop :=
  (∀ (n : BitVec 20) (v : Word) (s : State), s.params.fbPixels ≤ n.toNat →
    exec (.fbR n) s = .next (returning s 0) ∧ exec (.fbW n v) s = .next s) ∧
  (∀ (off : BitVec 23) (v : Word) (s : State) (rest : List HostEvent), off.toNat % 4 = 0 →
    0x400000 + 4 * s.params.fbPixels ≤ off.toNat →
    (s.port = .access (.read off 4) :: rest → step s = .next { s with port := rest, readData := 0 }) ∧
    (s.port = .access (.write off 4 v) :: rest → step s = .next { s with port := rest }))

/-- 20_memory.md R69, 10_state.md R39: a write of word `n` below the capacity stores the three channels and nothing else. The byte
lanes are the model's (log 9). -/
def Obligations.FrameBufferWriteStoresOnePixel : Prop :=
  ∀ (n : BitVec 20) (v : Word) (s : State), n.toNat < s.params.fbPixels →
    ∃ t, exec (.fbW n v) s = .next t ∧ t = { s with mem := t.mem } ∧
      fbRead t.mem n.toNat =
        some ⟨BitVec.ofNat 8 (v.toNat / 65536), BitVec.ofNat 8 (v.toNat / 256), BitVec.ofNat 8 v.toNat⟩ ∧
      (∀ a, a < fbAddr n.toNat ∨ fbAddr n.toNat + 2 < a → t.mem.read a = s.mem.read a) ∧
      (∀ k, k ≠ n.toNat → fbRead t.mem k = fbRead s.mem k)

/-- 20_memory.md R69: a read of a written word below the capacity returns its pixel. -/
def Obligations.FrameBufferReadReturnsTheWrittenPixel : Prop :=
  ∀ (n : BitVec 20) (s : State) (p : Rgb8), n.toNat < s.params.fbPixels → fbRead s.mem n.toNat = some p →
    exec (.fbR n) s = .next (returning s (rgb8Number p))

/-- 20_memory.md R69, 60_exceptions.md R255: the only stops. A read of an unwritten word below the capacity faults; no instruction
is refused; and nothing faults but a frame-buffer read and a dither pass, each on an unwritten word. -/
def Obligations.OnlyUnwrittenWordsStopTheMachine : Prop :=
  (∀ (n : BitVec 20) (s : State), n.toNat < s.params.fbPixels → ¬ Written s n.toNat →
    exec (.fbR n) s = .fault (.unwrittenFrameBuffer n.toNat)) ∧
  (∀ (i : Instr) (s : State) (r : Refusal), exec i s ≠ .refused r) ∧
  (∀ (i : Instr) (s : State) (n : Nat), exec i s = .fault (.unwrittenFrameBuffer n) →
    ¬ Written s n ∧ n < s.params.fbPixels ∧ (i = .fbR (BitVec.ofNat 20 n) ∨ isDither i = true))

/-! ### Colour unit -/

/-- 40_color.md R125, with R120 and R121: `quantize` after `expand` is the identity, and `expand` after `quantize` is the identity
exactly on pixels whose channels are multiples of 17. -/
def Obligations.QuantizeAndExpandRoundTrip : Prop :=
  (∀ c : Color12, quantize (expand c) = c) ∧
  (∀ p : Rgb8, expand (quantize p) = p ↔ (p.r.toNat % 17 = 0 ∧ p.g.toNat % 17 = 0 ∧ p.b.toNat % 17 = 0))

/-- 40_color.md R123: `q8(v) = 17 * (v >> 4)`, the identity exactly on multiples of 17, off by `(v >> 4) - (v & 15)`,
which is -15 to 15 and positive exactly when `v & 15 < v >> 4`. -/
def Obligations.DitherQuantizerValues : Prop :=
  ∀ v : BitVec 8, (q8 v).toNat = 17 * (v.toNat / 16) ∧ (q8 v = v ↔ v.toNat % 17 = 0) ∧
    ((q8 v).toNat : Int) - v.toNat = (v.toNat / 16 : Nat) - (v.toNat % 16 : Nat) ∧
    -15 ≤ ((q8 v).toNat : Int) - v.toNat ∧ ((q8 v).toNat : Int) - v.toNat ≤ 15 ∧
    (v.toNat < (q8 v).toNat ↔ v.toNat % 16 < v.toNat / 16)

/-- 40_color.md R122, R124: the distance is the exact sum of squares, symmetric, 0 exactly on equal colours, at most 675. -/
def Obligations.DistanceIsSymmetricBoundedAndZeroOnlyOnEqual : Prop :=
  ∀ a b : Color12, (distance a b : Int) = colourDist a b ∧ distance a b = distance b a ∧ distance a b ≤ 675 ∧ (distance a b = 0 ↔ a = b)

/-- 44_dither.md R222: the division rounds toward zero under `TRUNC` and toward minus infinity under `FLOOR`. -/
def Obligations.DiffusionDivisionRounds : Prop :=
  ∀ (a : Int) (d : Nat), 0 < d →
    (diffDiv .floor a d * d ≤ a ∧ a < (diffDiv .floor a d + 1) * d) ∧
    (0 ≤ a → 0 ≤ diffDiv .trunc a d ∧ diffDiv .trunc a d * d ≤ a ∧ a < (diffDiv .trunc a d + 1) * d) ∧
    (a ≤ 0 → diffDiv .trunc a d ≤ 0 ∧ a ≤ diffDiv .trunc a d * d ∧ (diffDiv .trunc a d - 1) * d < a)

/-! ### Palette and lookup -/

/-- 41_palette.md R141: a palette write sets its entry to `data[11:0]` and nothing else; a read returns the entry. -/
def Obligations.PaletteWriteAndRead : Prop :=
  ∀ (i : BitVec 4) (v : Word) (s : State),
    (∃ t, exec (.palW i v) s = .next t ∧ t = { s with pal := t.pal } ∧
      color12Number (palGet t.pal i) = v.toNat % 4096 ∧ (∀ j, j ≠ i → palGet t.pal j = palGet s.pal j)) ∧
    exec (.palR i) s = .next (returning s (color12Number (palGet s.pal i)))

/-- 41_palette.md R142: `nearest` gives the least index of an entry at the smallest distance, and that distance. -/
def Obligations.NearestIsTheLeastIndexAtTheSmallestDistance : Prop :=
  ∀ (pal : Vector Color12 16) (t : Color12), IsNearest pal t (nearest pal t).1 ∧
    ((nearest pal t).2 : Int) = colourDist (palGet pal (nearest pal t).1) t ∧
    ∀ i : BitVec 4, IsNearest pal t i → i = (nearest pal t).1

/-- 41_palette.md R143: a `LOOKUP` write leaves the nearest entry's index and distance in `LOOKUP_OUT` and changes nothing else. -/
def Obligations.LookupLeavesIndexAndDistance : Prop :=
  ∀ (v : Word) (s : State), ∃ (i : BitVec 4) (t : Color12), color12Number t = v.toNat % 4096 ∧ IsNearest s.pal t i ∧
    exec (.lookupW v) s =
      .next { s with lookupOut := BitVec.ofNat 14 ((colourDist (palGet s.pal i) t).toNat * 16 + i.toNat) }

/-- 42_encoder.md R167, 43_decoder.md R199, 41_palette.md R144: the result reads. -/
def Obligations.ResultReadsReturnTheRegisters : Prop :=
  ∀ s : State,
    exec .encOutR s = .next (returning s s.encOut.toNat) ∧
    exec .encPrevR s = .next (returning s (color12Number s.encPrev)) ∧
    exec .encCountR s = .next (returning s s.encCount.toNat) ∧
    exec .decOutR s = .next (returning s (rgb8Number s.decOut)) ∧
    exec .decPrevR s = .next (returning s (color12Number s.decPrev)) ∧
    exec .decCountR s = .next (returning s s.decCount.toNat) ∧
    exec .lookupOutR s = .next (returning s s.lookupOut.toNat)

/-! ### Encoder -/

/-- 42_encoder.md R162, R163, R165: an unforced step below the frame size emits the first of the four candidates at the smallest
distance, and changes nothing but the encoder's three registers. -/
def Obligations.EncoderEmitsTheFirstCandidateAtTheSmallestDistance : Prop :=
  ∀ (v : Word) (s : State), s.encCount.toNat < s.width.toNat * s.height.toNat →
    (s.ffc = false ∨ s.encCount.toNat % s.width.toNat ≠ 0) →
    ∃ (i : BitVec 4) (k : Nat) (c : Nat × BitVec 4 × Color12), IsNearest s.pal (targetOf v) i ∧
      (candidateTable s (targetOf v) i)[k]? = some c ∧
      (∀ (j : Nat) (c' : Nat × BitVec 4 × Color12), (candidateTable s (targetOf v) i)[j]? = some c' →
        colourDist c.2.2 (targetOf v) ≤ colourDist c'.2.2 (targetOf v) ∧
        (j < k → colourDist c.2.2 (targetOf v) < colourDist c'.2.2 (targetOf v))) ∧
      exec (.encInW v) s = .next (encoded s (targetOf v) c.1 c.2.1 c.2.2)

/-- 42_encoder.md R164, R165: with `CTRL.FFC = 1` the first pixel of a row is encoded as `UsePalette` with the nearest entry. -/
def Obligations.ForcedFirstColumnUsesThePalette : Prop :=
  ∀ (v : Word) (s : State), s.encCount.toNat < s.width.toNat * s.height.toNat → s.ffc = true →
    s.encCount.toNat % s.width.toNat = 0 →
    ∃ i : BitVec 4, IsNearest s.pal (targetOf v) i ∧
      exec (.encInW v) s = .next (encoded s (targetOf v) 0 i (palGet s.pal i))

/-- 60_exceptions.md R251: an `ENC_IN` write at or past the frame size sets `STATUS[0]` and changes nothing else. -/
def Obligations.EncoderOverflowOnlySetsItsBit : Prop :=
  ∀ (v : Word) (s : State), s.width.toNat * s.height.toNat ≤ s.encCount.toNat →
    exec (.encInW v) s = .next { s with status := s.status ||| 0b0001 }

/-- 42_encoder.md R166: `ENC_RESET`, as a command and as the `CMD` write that performs it. -/
def Obligations.EncResetClearsPreviousColourAndCount : Prop :=
  ∀ s : State, exec .encReset s = .next { s with encPrev := ⟨0, 0, 0⟩, encCount := 0 } ∧
    ∀ v : Word, v.toNat % 16 = 1 → exec (.cmdW v) s = .next { s with encPrev := ⟨0, 0, 0⟩, encCount := 0 }

/-- 42_encoder.md R168, items 2 and 3: a target in the palette is encoded as its lowest index at distance 0; otherwise, unless
forced, a target that agrees with `ENC_PREV` on green and blue is encoded as `MODR` at distance 0. -/
def Obligations.ExactTargetsEncodeAtDistanceZero : Prop :=
  ∀ (v : Word) (s : State), s.encCount.toNat < s.width.toNat * s.height.toNat →
    (∀ i : BitVec 4, palGet s.pal i = targetOf v → (∀ j : BitVec 4, j.toNat < i.toNat → palGet s.pal j ≠ targetOf v) →
      exec (.encInW v) s = .next (encoded s (targetOf v) 0 i (targetOf v))) ∧
    ((∀ j : BitVec 4, palGet s.pal j ≠ targetOf v) → (s.ffc = false ∨ s.encCount.toNat % s.width.toNat ≠ 0) →
      s.encPrev.g = (targetOf v).g → s.encPrev.b = (targetOf v).b →
      exec (.encInW v) s = .next (encoded s (targetOf v) 1 (targetOf v).r (targetOf v)))

/-! ### Decoder -/

/-- 43_decoder.md R192 to R196: below the frame size each HAM6 instruction reconstructs its colour, and changes nothing but the
decoder's three registers. That a HAM6 instruction is one whole decoder step is the model's reading (log 12, DEDUCED). -/
def Obligations.Ham6InstructionsReconstructTheirColour : Prop :=
  ∀ (n : BitVec 4) (s : State), s.decCount.toNat < s.width.toNat * s.height.toNat →
    exec (.usepal n) s = .next (decoded s (palGet s.pal n)) ∧
    exec (.modr n) s = .next (decoded s ⟨n, s.decPrev.g, s.decPrev.b⟩) ∧
    exec (.modg n) s = .next (decoded s ⟨s.decPrev.r, n, s.decPrev.b⟩) ∧
    exec (.modb n) s = .next (decoded s ⟨s.decPrev.r, s.decPrev.g, n⟩)

/-- 43_decoder.md R191: a `DEC_IN` write runs the instruction that `OP = data[5:4]` selects with payload `data[3:0]`, whatever
`data[31:6]` is; below the frame size it completes as R192 to R196 say. That a HAM6 instruction is one whole decoder step is the
model's reading (log 12, DEDUCED). -/
def Obligations.DecInRunsItsWord : Prop :=
  ∀ (v : Word) (s : State) (n : BitVec 4), n.toNat = v.toNat % 16 →
    (v.toNat / 16 % 4 = 0 → exec (.decInW v) s = exec (.usepal n) s) ∧
    (v.toNat / 16 % 4 = 1 → exec (.decInW v) s = exec (.modr n) s) ∧
    (v.toNat / 16 % 4 = 2 → exec (.decInW v) s = exec (.modg n) s) ∧
    (v.toNat / 16 % 4 = 3 → exec (.decInW v) s = exec (.modb n) s) ∧
    (s.decCount.toNat < s.width.toNat * s.height.toNat →
      ∃ c : Color12, exec (.decInW v) s = .next (decoded s c) ∧
        (v.toNat / 16 % 4 = 0 → c = palGet s.pal n) ∧
        (v.toNat / 16 % 4 = 1 → c = ⟨n, s.decPrev.g, s.decPrev.b⟩) ∧
        (v.toNat / 16 % 4 = 2 → c = ⟨s.decPrev.r, n, s.decPrev.b⟩) ∧
        (v.toNat / 16 % 4 = 3 → c = ⟨s.decPrev.r, s.decPrev.g, n⟩))

/-- 60_exceptions.md R252 for a `DEC_IN` write: at or past the frame size it sets `STATUS[1]` and changes nothing else. That each
HAM6 instruction by itself carries the same guard is the model's reading (log 12, DEDUCED). -/
def Obligations.DecoderOverflowOnlySetsItsBit : Prop :=
  ∀ (v : Word) (n : BitVec 4) (s : State) (i : Instr), s.width.toNat * s.height.toNat ≤ s.decCount.toNat →
    (i = .decInW v ∨ i = .usepal n ∨ i = .modr n ∨ i = .modg n ∨ i = .modb n) →
    exec i s = .next { s with status := s.status ||| 0b0010 }

/-- 43_decoder.md R197: `DEC_RESET`, as a command and as the `CMD` write that performs it. -/
def Obligations.DecResetClearsPreviousColourAndCount : Prop :=
  ∀ s : State, exec .decReset s = .next { s with decPrev := ⟨0, 0, 0⟩, decCount := 0 } ∧
    ∀ v : Word, v.toNat % 16 = 2 → exec (.cmdW v) s = .next { s with decPrev := ⟨0, 0, 0⟩, decCount := 0 }

/-- 43_decoder.md R198, 60_exceptions.md R253: `DEC_CHECK` sets `STATUS[2]` exactly when the count is not the frame size, and changes
nothing else. -/
def Obligations.DecCheckComparesCountWithFrameSize : Prop :=
  ∀ s : State, exec .decCheck s =
      .next (if s.decCount.toNat = s.width.toNat * s.height.toNat then s else { s with status := s.status ||| 0b0100 }) ∧
    ∀ v : Word, v.toNat % 16 = 3 → exec (.cmdW v) s = exec .decCheck s

/-- 41_palette.md R145, 43_decoder.md R192: a Modify instruction reads no palette entry, and `USEPAL n` reads only entry `n` and
not `DEC_PREV`. -/
def Obligations.ModifyWordsDoNotReadThePalette : Prop :=
  ∀ (s s' : State) (n : BitVec 4), s.decCount.toNat < s.width.toNat * s.height.toNat →
    (∀ (i : Instr) (q : Vector Color12 16), s' = { s with pal := q } → (i = .modr n ∨ i = .modg n ∨ i = .modb n) →
      ∃ t, exec i s = .next t ∧ exec i s' = .next { t with pal := q }) ∧
    (∀ (q : Vector Color12 16) (p : Color12), s' = { s with pal := q, decPrev := p } → palGet q n = palGet s.pal n →
      ∃ t, exec (.usepal n) s = .next t ∧ exec (.usepal n) s' = .next { t with pal := q })

/-- 43_decoder.md R200, first sentence: from equal previous colours, decoding the word an encoder step left gives the encoder's new
previous colour. -/
def Obligations.DecodingTheEmittedWordFollowsTheEncoder : Prop :=
  ∀ (v : Word) (s : State), s.encPrev = s.decPrev → s.encCount.toNat < s.width.toNat * s.height.toNat →
    s.decCount.toNat < s.width.toNat * s.height.toNat →
    ∃ t u, exec (.encInW v) s = .next t ∧ exec (.decInW (wordOut t)) t = .next u ∧
      u.decPrev = t.encPrev ∧ u.encPrev = t.encPrev ∧ u.decOut = expanded t.encPrev ∧ u.status = s.status

/-- 43_decoder.md R200, second sentence, and R201: after `ENC_RESET` and `DEC_RESET`, a stream of at most `WIDTH * HEIGHT` pixels
encodes and decodes without an error, one output a pixel, each the expanded `ENC_PREV` of its pixel; and on a whole frame
`DEC_CHECK` then raises nothing. -/
def Obligations.DecodedStreamIsTheEncodersColours : Prop :=
  ∀ (vs : List Word) (s a b : State), exec .encReset s = .next a → exec .decReset a = .next b →
    vs.length ≤ s.width.toNat * s.height.toNat →
    ∃ outs t, codecRun vs b = some (outs, t) ∧ outs.length = vs.length ∧ (∀ o ∈ outs, o.2 = expanded o.1) ∧
      t.encCount.toNat = vs.length ∧ t.decCount.toNat = vs.length ∧ t.status = s.status ∧ t.encPrev = t.decPrev ∧
      (vs.length = s.width.toNat * s.height.toNat → exec .decCheck t = .next t)

/-- 42_encoder.md R168 item 2 with 43_decoder.md R200: where every quantized pixel of an image is a palette colour, the QUANTIZED
colours come back exactly, each `DEC_OUT` its quantized colour expanded, forced first column or not. This does not say that the
24-bit pixel comes back: for that see `QuantizeAndExpandRoundTrip`. -/
def Obligations.PaletteColouredImagesComeBackExactly : Prop :=
  ∀ (vs : List Word) (s : State), s.encPrev = s.decPrev →
    s.encCount.toNat + vs.length ≤ s.width.toNat * s.height.toNat →
    s.decCount.toNat + vs.length ≤ s.width.toNat * s.height.toNat →
    (∀ v ∈ vs, ∃ i : BitVec 4, palGet s.pal i = targetOf v) →
    ∃ t, codecRun vs s = some (vs.map (fun v => (targetOf v, expanded (targetOf v))), t)

/-! ### Errors and whole-machine rules -/

/-- 60_exceptions.md R254, 30_encoding.md R96: a reserved command code, or a dither command whose raster does not fit, sets
`STATUS[3]` and changes nothing else. -/
def Obligations.CmdErrOnlySetsItsBit : Prop :=
  ∀ s : State,
    exec .cmdReserved7 s = .next { s with status := s.status ||| 0b1000 } ∧
    (∀ c, exec (.cmdReserved8F c) s = .next { s with status := s.status ||| 0b1000 }) ∧
    (∀ v : Word, 7 ≤ v.toNat % 16 → exec (.cmdW v) s = .next { s with status := s.status ||| 0b1000 }) ∧
    (∀ i : Instr, isDither i = true → s.params.fbPixels < s.width.toNat * s.height.toNat →
      exec i s = .next { s with status := s.status ||| 0b1000 })

/-- 60_exceptions.md R260, R250: an access raises at most one error, and each error only by the accesses that may raise it; a HAM6
instruction counts as the decoder step that it is (log 12). -/
def Obligations.AnAccessRaisesAtMostOneError : Prop :=
  ∀ (i : Instr) (s t : State), exec i s = .next t → (∀ v, i ≠ .statusW1C v) →
    t.status = s.status ∨
    (t.status = s.status ||| 0b0001 ∧ ∃ v, i = .encInW v) ∨
    (t.status = s.status ||| 0b0010 ∧ ((∃ v, i = .decInW v) ∨ ∃ n, i = .usepal n ∨ i = .modr n ∨ i = .modg n ∨ i = .modb n)) ∨
    (t.status = s.status ||| 0b0100 ∧ (i = .decCheck ∨ ∃ v : Word, i = .cmdW v ∧ v.toNat % 16 = 3)) ∨
    (t.status = s.status ||| 0b1000 ∧ (i = .cmdReserved7 ∨ (∃ c, i = .cmdReserved8F c) ∨ isDither i = true ∨
      ∃ v : Word, i = .cmdW v ∧ 7 ≤ v.toNat % 16))

/-- 10_state.md R43: no result depends on a `STATUS` bit; only the read of `STATUS` shows them. -/
def Obligations.NoResultDependsOnStatus : Prop :=
  ∀ (i : Instr) (s : State) (q : BitVec 4), i ≠ .statusR →
    (∀ t, exec i s = .next t → ∃ u, exec i { s with status := q } = .next u ∧ u = { t with status := u.status }) ∧
    (∀ f, exec i s = .fault f → exec i { s with status := q } = .fault f)

/-- 20_memory.md R68: no read has a side effect, and a repeated read returns the same word. -/
def Obligations.ReadsHaveNoSideEffect : Prop :=
  ∀ (i : Instr) (s t : State), isHostRead i = true → exec i s = .next t →
    t = { s with readData := t.readData } ∧ exec i t = .next t ∧
    ∀ w : Word, exec i { s with readData := w } = .next t

/-- 10_state.md R38, R40, R41, 44_dither.md R232, 60_exceptions.md R265: which instructions change which state but `STATUS`;
`DTH.err` only `DITHER_NAIVE`. What changes `STATUS` stands in `StatusBitsAreStickyUntilWrittenOne` and
`AnAccessRaisesAtMostOneError`. The parameters and the events still to come are changed by none (log 1, 3); that the four HAM6 instructions are
decoder steps is log 12. -/
def Obligations.OnlyItsOwnInstructionsChangeEachUnit : Prop :=
  ∀ (i : Instr) (s t : State), exec i s = .next t →
    t.port = s.port ∧ t.params = s.params ∧
    (t.ffc ≠ s.ffc → ∃ v, i = .ctrlW v) ∧
    (t.width ≠ s.width → ∃ v, i = .widthW v) ∧
    (t.height ≠ s.height → ∃ v, i = .heightW v) ∧
    (t.pal ≠ s.pal → ∃ k v, i = .palW k v) ∧
    (t.lookupOut ≠ s.lookupOut → ∃ v, i = .lookupW v) ∧
    (t.encOut ≠ s.encOut → ∃ v, i = .encInW v) ∧
    (t.encPrev ≠ s.encPrev ∨ t.encCount ≠ s.encCount →
      (∃ v, i = .encInW v) ∨ i = .encReset ∨ ∃ v : Word, i = .cmdW v ∧ v.toNat % 16 = 1) ∧
    (t.decOut ≠ s.decOut →
      (∃ v, i = .decInW v) ∨ ∃ n, i = .usepal n ∨ i = .modr n ∨ i = .modg n ∨ i = .modb n) ∧
    (t.decPrev ≠ s.decPrev ∨ t.decCount ≠ s.decCount →
      (∃ v, i = .decInW v) ∨ (∃ n, i = .usepal n ∨ i = .modr n ∨ i = .modg n ∨ i = .modb n) ∨ i = .decReset ∨
        ∃ v : Word, i = .cmdW v ∧ v.toNat % 16 = 2) ∧
    (t.mem ≠ s.mem → (∃ n v, i = .fbW n v) ∨ isDither i = true) ∧
    (t.dthErr ≠ s.dthErr → i = .ditherNaive ∨ ∃ v : Word, i = .cmdW v ∧ v.toNat % 16 = 4) ∧
    (t.readData ≠ s.readData → isHostRead i = true)

/-- 10_state.md R42, R30, R34: a pixel counter changes only by advancing by exactly 1, as a number, on a step of its unit, or by
going to 0 on its reset command; so it never wraps. That the four HAM6 instructions are decoder steps is log 12. -/
def Obligations.CountersAdvanceByOneOrReset : Prop :=
  ∀ (i : Instr) (s t : State), exec i s = .next t →
    (t.encCount = s.encCount ∨
      (t.encCount.toNat = s.encCount.toNat + 1 ∧ ∃ v, i = .encInW v) ∨
      (t.encCount = 0 ∧ (i = .encReset ∨ ∃ v : Word, i = .cmdW v ∧ v.toNat % 16 = 1))) ∧
    (t.decCount = s.decCount ∨
      (t.decCount.toNat = s.decCount.toNat + 1 ∧
        ((∃ v, i = .decInW v) ∨ ∃ n, i = .usepal n ∨ i = .modr n ∨ i = .modg n ∨ i = .modb n)) ∨
      (t.decCount = 0 ∧ (i = .decReset ∨ ∃ v : Word, i = .cmdW v ∧ v.toNat % 16 = 2)))

/-- 10_state.md R39, 42_encoder.md and 43_decoder.md (introductions): no instruction but the frame-buffer accesses and the dither
commands depends on the frame buffer. -/
def Obligations.OnlyFrameBufferInstructionsReadTheFrameBuffer : Prop :=
  ∀ (i : Instr) (s t : State) (m : Memory), isDither i = false → (∀ n v, i ≠ .fbW n v) → (∀ n, i ≠ .fbR n) →
    exec i s = .next t → t.mem = s.mem ∧ exec i { s with mem := m } = .next { t with mem := m }

/-! ### Dither engine -/

/-- 44_dither.md R223, R220: the naive pass over a written raster that fits. On each channel there are running errors, from 0, not
reset at row ends, such that each pixel becomes the clamped sum and the next error is the pixel less its quantized correction. That `DTH.err` is
left 0 is the model's choice (log 10). -/
def Obligations.DitherNaiveCarriesTheRunningError : Prop :=
  ∀ s : State, RasterFits s → RasterWritten s →
    ∃ t, exec .ditherNaive s = .next t ∧ t = { s with mem := t.mem, dthErr := ⟨0, 0, 0⟩ } ∧ UnchangedOutsideRaster s t ∧
      ∀ c : Channel, ∃ err : Nat → Int, err 0 = 0 ∧
        ∀ n, n < s.width.toNat * s.height.toNat → ∃ p q, fbRead s.mem n = some p ∧ fbRead t.mem n = some q ∧
          ((q.chan c).toNat : Int) = clampInt ((p.chan c).toNat + err n) ∧
          err (n + 1) = (p.chan c).toNat - 17 * ((q.chan c).toNat / 16) ∧ -255 ≤ err n ∧ err n ≤ 255

/-- 44_dither.md R224, R225, R221: Floyd-Steinberg over a raster that fits, and of which every pixel that the pass reads is written,
completes, gives on every channel what the pseudocode gives on that channel alone, and changes nothing else. -/
def Obligations.DitherFsIsThePseudocodeOnEachChannel : Prop :=
  ∀ s : State, RasterFits s →
    KernelReadsWritten fsNeighbours 1 ((s.width.toNat : Int) - 3) 1 ((s.height.toNat : Int) - 3) s →
    ∃ t, exec .ditherFs s = .next t ∧ t = { s with mem := t.mem } ∧ UnchangedOutsideRaster s t ∧
      (∀ n, Written t n ↔ Written s n) ∧
      ∀ (c : Channel) (x y : Int), 0 ≤ x → x < s.width.toNat → 0 ≤ y → y < s.height.toNat →
        channelAt t c x y =
          diffuseRows s.params.diffDiv fsNeighbours 16 1 (s.width.toNat - 3) (s.height.toNat - 3) 1 (channelAt s c) x y

/-- 44_dither.md R226, R227, R221: the same for Jarvis-Judice-Ninke. -/
def Obligations.DitherJjnIsThePseudocodeOnEachChannel : Prop :=
  ∀ s : State, RasterFits s →
    KernelReadsWritten jjnNeighbours 3 ((s.width.toNat : Int) - 4) 0 ((s.height.toNat : Int) - 4) s →
    ∃ t, exec .ditherJjn s = .next t ∧ t = { s with mem := t.mem } ∧ UnchangedOutsideRaster s t ∧
      (∀ n, Written t n ↔ Written s n) ∧
      ∀ (c : Channel) (x y : Int), 0 ≤ x → x < s.width.toNat → 0 ≤ y → y < s.height.toNat →
        channelAt t c x y =
          diffuseRows s.params.diffDiv jjnNeighbours 48 3 (s.width.toNat - 6) (s.height.toNat - 3) 0 (channelAt s c) x y

/-- 70_reset_and_hazards.md R288, 20_memory.md R69: a naive pass that fits faults exactly when a word of the raster is unwritten. -/
def Obligations.DitherNaiveFaultsExactlyOnUnwrittenWords : Prop :=
  ∀ s : State, RasterFits s →
    ((∃ n, exec .ditherNaive s = .fault (.unwrittenFrameBuffer n)) ↔ ¬ RasterWritten s) ∧
    (RasterWritten s → ∃ t, exec .ditherNaive s = .next t)

/-- 70_reset_and_hazards.md R288, 44_dither.md R224: a Floyd-Steinberg pass that fits faults exactly when a processed pixel or a
neighbour of one is unwritten. -/
def Obligations.DitherFsFaultsExactlyOnUnwrittenWords : Prop :=
  ∀ s : State, RasterFits s →
    ((∃ n, exec .ditherFs s = .fault (.unwrittenFrameBuffer n)) ↔
      ∃ x y : Int, 1 ≤ x ∧ x ≤ (s.width.toNat : Int) - 3 ∧ 1 ≤ y ∧ y ≤ (s.height.toNat : Int) - 3 ∧
        (¬ PixelWritten s x y ∨ ∃ k ∈ fsNeighbours, ¬ PixelWritten s (x + k.1) (y + k.2.1))) ∧
    ((∃ n, exec .ditherFs s = .fault (.unwrittenFrameBuffer n)) ∨ ∃ t, exec .ditherFs s = .next t)

/-- 70_reset_and_hazards.md R288, 44_dither.md R226: the same for Jarvis-Judice-Ninke. -/
def Obligations.DitherJjnFaultsExactlyOnUnwrittenWords : Prop :=
  ∀ s : State, RasterFits s →
    ((∃ n, exec .ditherJjn s = .fault (.unwrittenFrameBuffer n)) ↔
      ∃ x y : Int, 3 ≤ x ∧ x ≤ (s.width.toNat : Int) - 4 ∧ 0 ≤ y ∧ y ≤ (s.height.toNat : Int) - 4 ∧
        (¬ PixelWritten s x y ∨ ∃ k ∈ jjnNeighbours, ¬ PixelWritten s (x + k.1) (y + k.2.1))) ∧
    ((∃ n, exec .ditherJjn s = .fault (.unwrittenFrameBuffer n)) ∨ ∃ t, exec .ditherJjn s = .next t)

/-- 44_dither.md R228: where the range is empty a kernel filter that fits changes nothing and reads nothing. -/
def Obligations.EmptyRangesChangeNothing : Prop :=
  ∀ s : State, RasterFits s →
    (s.width.toNat < 4 ∨ s.height.toNat < 4 → exec .ditherFs s = .next s) ∧
    (s.width.toNat < 7 ∨ s.height.toNat < 4 → exec .ditherJjn s = .next s)

/-- 44_dither.md R230, its three lists of pixels never written. -/
def Obligations.MarginPixelsAreNeverWritten : Prop :=
  ∀ (s t : State) (x y : Int), RasterFits s → 0 ≤ x → x < s.width.toNat → 0 ≤ y → y < s.height.toNat →
    (exec .ditherNaive s = .next t → fbRead t.mem 0 = fbRead s.mem 0) ∧
    (exec .ditherFs s = .next t →
      (y = 0 ∨ y = (s.height.toNat : Int) - 1 ∨ x = (s.width.toNat : Int) - 1 ∨ (x = 0 ∧ y = 1)) →
      fbRead t.mem (y * (s.width.toNat : Int) + x).toNat = fbRead s.mem (y * (s.width.toNat : Int) + x).toNat) ∧
    (exec .ditherJjn s = .next t →
      (y = (s.height.toNat : Int) - 1 ∨ x = (s.width.toNat : Int) - 1 ∨ (y = 0 ∧ x ≤ 2) ∨
        (x = (s.width.toNat : Int) - 2 ∧ (y = (s.height.toNat : Int) - 3 ∨ y = (s.height.toNat : Int) - 2))) →
      fbRead t.mem (y * (s.width.toNat : Int) + x).toNat = fbRead s.mem (y * (s.width.toNat : Int) + x).toNat)

/-- 44_dither.md R220, R229, R232: a pass that fits changes the raster's words and nothing else; `DTH.err` is left 0 by the naive pass
(the model's choice, log 10). -/
def Obligations.DitherChangesOnlyTheRaster : Prop :=
  ∀ s t : State, RasterFits s →
    (exec .ditherNaive s = .next t → t = { s with mem := t.mem, dthErr := ⟨0, 0, 0⟩ } ∧ UnchangedOutsideRaster s t) ∧
    (exec .ditherFs s = .next t → t = { s with mem := t.mem } ∧ UnchangedOutsideRaster s t) ∧
    (exec .ditherJjn s = .next t → t = { s with mem := t.mem } ∧ UnchangedOutsideRaster s t)

/-- 44_dither.md R232, for the registers of the codec: a dither pass depends on the frame buffer, the dimensions and the parameters
alone. That it depends on `WIDTH` and `HEIGHT` at all, which R232 denies, is the model's reading of R220 and
70_reset_and_hazards.md R286 (log 19, DEDUCED). -/
def Obligations.DitherReadsNoCodecRegister : Prop :=
  ∀ (i : Instr) (s u t : State), isDither i = true → RasterFits s → u.mem = s.mem → u.width = s.width →
    u.height = s.height → u.params = s.params → exec i s = .next t →
    ∃ w, exec i u = .next w ∧ w.mem = t.mem

/-! ### The invariant -/

/-- The invariant holds after reset (70_reset_and_hazards.md R280); that `DTH.err` is 0 there is the model's choice (log 10). -/
def Obligations.ResetSatisfiesTheInvariant : Prop := Inv State.reset

/-- Every step keeps the invariant: canonical memory inside the frame buffer, whole words, distances at most 675, counters that
cannot wrap, decoded channels multiples of 17, a legal capacity. `DTH.err = 0` is the model's choice (log 10). -/
def Obligations.EveryStepKeepsTheInvariant : Prop :=
  ∀ s t : State, Inv s → step s = .next t → Inv t
end

