-- ==== Sys2Proof/Laws/Colour.lean ====
section
/-! SUPPORT. The colour unit's functions and the operand forms as numbers. -/

namespace Sys2Proof.Machine

theorem expand1_toNat (v : BitVec 4) : (expand1 v).toNat = 17 * v.toNat := by
  have h : ∀ v : BitVec 4, (expand1 v).toNat = 17 * v.toNat := by decide
  exact h v

/-- One channel of `quantize` (40_color.md R120). -/
theorem highNibble_toNat (v : BitVec 8) : (v.extractLsb' 4 4).toNat = v.toNat / 16 := by
  have := v.isLt
  rw [BitVec.extractLsb'_toNat, Nat.shiftRight_eq_div_pow]
  omega

/-- `q8` on numbers (40_color.md R123). -/
theorem q8_toNat (v : BitVec 8) : (q8 v).toNat = 17 * (v.toNat / 16) := by
  rw [q8, expand1_toNat, highNibble_toNat]

/-- A clamped value lies in 0 to 255, so it is stored as it is (44_dither.md R221). -/
theorem clamp8_toNat (z : Int) : ((clamp8 z).toNat : Int) = min 255 (max 0 z) := by
  rw [clamp8, BitVec.toNat_ofInt]
  omega

/-- The naive filter's error fits its 10 bits (10_state.md R40). -/
theorem naiveError_range (o corr : BitVec 8) :
    -255 ≤ (o.toNat : Int) - (q8 corr).toNat ∧ (o.toNat : Int) - (q8 corr).toNat ≤ 255 := by
  have h1 := o.isLt
  have h2 := (q8 corr).isLt
  omega

theorem ofInt10_toInt {z : Int} (h1 : -512 ≤ z) (h2 : z < 512) : (BitVec.ofInt 10 z).toInt = z := by
  rw [BitVec.toInt_ofInt, Int.bmod_def]
  norm_num
  split <;> omega

theorem sqDiff_int (x y : BitVec 4) : (sqDiff x y : Int) = ((x.toNat : Int) - y.toNat) * ((x.toNat : Int) - y.toNat) := by
  rw [sqDiff, Int.toNat_of_nonneg (mul_self_nonneg _)]

theorem sqDiff_le (x y : BitVec 4) : sqDiff x y ≤ 225 := by
  have h : ∀ x y : BitVec 4, sqDiff x y ≤ 225 := by decide
  exact h x y

theorem sqDiff_self (x : BitVec 4) : sqDiff x x = 0 := by simp [sqDiff]

theorem sqDiff_eq_zero (x y : BitVec 4) : sqDiff x y = 0 ↔ x = y := by
  have h : ∀ x y : BitVec 4, sqDiff x y = 0 ↔ x = y := by decide
  exact h x y

/-- A distance fits its 10-bit field (40_color.md R122). -/
theorem distance_lt (a b : Color12) : distance a b < 2 ^ 10 := by
  have h1 := sqDiff_le a.r b.r
  have h2 := sqDiff_le a.g b.g
  have h3 := sqDiff_le a.b b.b
  unfold distance
  omega

theorem distance_self (a : Color12) : distance a a = 0 := by simp [distance, sqDiff_self]

/-! ### Operand forms -/

theorem pack12_toNat (c : Color12) : (pack12 c).toNat = c.r.toNat * 256 + c.g.toNat * 16 + c.b.toNat := by
  have h2 := c.g.isLt
  have h3 := c.b.isLt
  simp only [pack12, BitVec.toNat_append]
  rw [← Nat.shiftLeft_add_eq_or_of_lt h3, ← Nat.shiftLeft_add_eq_or_of_lt h2]
  simp only [Nat.shiftLeft_eq]
  omega

theorem pack24_toNat (p : Rgb8) : (pack24 p).toNat = p.r.toNat * 65536 + p.g.toNat * 256 + p.b.toNat := by
  have h2 := p.g.isLt
  have h3 := p.b.isLt
  simp only [pack24, BitVec.toNat_append]
  rw [← Nat.shiftLeft_add_eq_or_of_lt h3, ← Nat.shiftLeft_add_eq_or_of_lt h2]
  simp only [Nat.shiftLeft_eq]
  omega

theorem wordOfColor12_eq (c : Color12) :
    wordOfColor12 c = BitVec.ofNat 32 (c.r.toNat * 256 + c.g.toNat * 16 + c.b.toNat) := by
  apply BitVec.eq_of_toNat_eq
  rw [wordOfColor12, BitVec.toNat_setWidth, pack12_toNat, BitVec.toNat_ofNat]

theorem wordOfRgb8_eq (p : Rgb8) :
    wordOfRgb8 p = BitVec.ofNat 32 (p.r.toNat * 65536 + p.g.toNat * 256 + p.b.toNat) := by
  apply BitVec.eq_of_toNat_eq
  rw [wordOfRgb8, BitVec.toNat_setWidth, pack24_toNat, BitVec.toNat_ofNat]

/-- A field of a field, as a number. -/
theorem extract_extract_toNat (v : Word) (lo len outer : Nat) :
    ((v.extractLsb' 0 outer).extractLsb' lo len).toNat = v.toNat % 2 ^ outer / 2 ^ lo % 2 ^ len := by
  simp [BitVec.extractLsb'_toNat, Nat.shiftRight_eq_div_pow]

theorem color12Of_eq (v : Word) :
    color12Of v = ⟨BitVec.ofNat 4 (v.toNat / 256), BitVec.ofNat 4 (v.toNat / 16), BitVec.ofNat 4 v.toNat⟩ := by
  simp only [color12Of, unpack12]
  congr 1 <;>
    (apply BitVec.eq_of_toNat_eq; rw [extract_extract_toNat, BitVec.toNat_ofNat]; omega)

theorem rgb8Of_eq (v : Word) :
    rgb8Of v = ⟨BitVec.ofNat 8 (v.toNat / 65536), BitVec.ofNat 8 (v.toNat / 256), BitVec.ofNat 8 v.toNat⟩ := by
  simp only [rgb8Of, unpack24]
  congr 1 <;>
    (apply BitVec.eq_of_toNat_eq; rw [extract_extract_toNat, BitVec.toNat_ofNat]; omega)

theorem packEncOut_toNat (d : Nat) (w : BitVec 6) (h : d < 2 ^ 10) : (packEncOut d w).toNat = d * 64 + w.toNat := by
  rw [packEncOut, BitVec.toNat_append, ← Nat.shiftLeft_add_eq_or_of_lt w.isLt, BitVec.toNat_ofNat, Nat.shiftLeft_eq,
    Nat.mod_eq_of_lt h]

theorem packLookupOut_toNat (d : Nat) (i : BitVec 4) (h : d < 2 ^ 10) : (packLookupOut d i).toNat = d * 16 + i.toNat := by
  rw [packLookupOut, BitVec.toNat_append, ← Nat.shiftLeft_add_eq_or_of_lt i.isLt, BitVec.toNat_ofNat, Nat.shiftLeft_eq,
    Nat.mod_eq_of_lt h]

end Sys2Proof.Machine
end

