-- ==== Sys2Proof/Laws/Palette.lean ====
section
/-! SUPPORT. The palette file and what the nearest-entry scan finds. -/

namespace Sys2Proof.Machine

@[simp] theorem palGet_palSet_same (pal : Vector Color12 16) (i : BitVec 4) (c : Color12) :
    palGet (palSet pal i c) i = c := by
  simp [palGet, palSet]

theorem palGet_palSet_ne (pal : Vector Color12 16) {i j : BitVec 4} (c : Color12) (h : j ≠ i) :
    palGet (palSet pal i c) j = palGet pal j := by
  have hn : i.toNat ≠ j.toNat := fun e => h (BitVec.eq_of_toNat_eq e.symm)
  simp [palGet, palSet, hn]

/-- The scan's running minimum: `best` is the first of the entries in `P` at the smallest distance, and its distance. -/
def ScanBest (pal : Vector Color12 16) (t : Color12) (P : BitVec 4 → Prop) (best : BitVec 4 × Nat) : Prop :=
  best.2 = distance (palGet pal best.1) t ∧ P best.1 ∧
  ∀ j, P j → best.2 ≤ distance (palGet pal j) t ∧ (j.toNat < best.1.toNat → best.2 < distance (palGet pal j) t)

/-- One step of the scan takes in one more entry, above those seen. -/
theorem scanBest_step {pal : Vector Color12 16} {t : Color12} {P : BitVec 4 → Prop} {best : BitVec 4 × Nat}
    (h : ScanBest pal t P best) (i : BitVec 4) (hi : ∀ j, P j → j.toNat < i.toNat) :
    ScanBest pal t (fun j => P j ∨ j = i) (nearestStep pal t best i) := by
  obtain ⟨h1, h2, h3⟩ := h
  unfold nearestStep
  split
  · rename_i hlt
    refine ⟨rfl, .inr rfl, ?_⟩
    rintro j (hj | rfl)
    · have := h3 j hj
      exact ⟨by dsimp only; omega, fun _ => by dsimp only; omega⟩
    · exact ⟨le_refl _, fun hj => absurd hj (by dsimp only; omega)⟩
  · rename_i hge
    refine ⟨h1, .inl h2, ?_⟩
    rintro j (hj | rfl)
    · exact h3 j hj
    · have := hi _ h2
      exact ⟨by omega, fun hj => by omega⟩

/-- The scan over a rising list of entries, all above those seen. -/
theorem scanBest_foldl {pal : Vector Color12 16} {t : Color12} (l : List (BitVec 4)) :
    ∀ {P : BitVec 4 → Prop} {best : BitVec 4 × Nat}, ScanBest pal t P best →
      (∀ i ∈ l, ∀ j, P j → j.toNat < i.toNat) → l.Pairwise (fun a b => a.toNat < b.toNat) →
      ScanBest pal t (fun j => P j ∨ j ∈ l) (l.foldl (nearestStep pal t) best) := by
  induction l with
  | nil => intro P best h _ _; simpa using h
  | cons i l ih =>
    intro P best h habove hp
    rw [List.pairwise_cons] at hp
    have hs := scanBest_step h i (habove i (by simp))
    have := ih hs (fun k hk j hj => by
      rcases hj with hj | rfl
      · exact habove k (by simp [hk]) j hj
      · exact hp.1 k hk) hp.2
    simpa [or_assoc] using this

/-- What `nearest` answers: the distance of its entry, no larger than any, and smaller than any earlier one (41_palette.md R142). -/
theorem nearest_spec (pal : Vector Color12 16) (t : Color12) :
    (nearest pal t).2 = distance (palGet pal (nearest pal t).1) t ∧
    ∀ j, (nearest pal t).2 ≤ distance (palGet pal j) t ∧
      (j.toNat < (nearest pal t).1.toNat → (nearest pal t).2 < distance (palGet pal j) t) := by
  have h0 : ScanBest pal t (fun j => j = 0) (0, distance (palGet pal 0) t) :=
    ⟨rfl, rfl, fun j hj => by subst hj; exact ⟨le_refl _, fun h => absurd h (by simp)⟩⟩
  obtain ⟨h1, -, h3⟩ := scanBest_foldl [1, 2, 3, 4, 5, 6, 7, 8, 9, 10, 11, 12, 13, 14, 15] h0 (by
    intro i hi j hj
    subst hj
    revert i
    decide) (by decide)
  refine ⟨h1, fun j => h3 j ?_⟩
  have : ∀ j : BitVec 4, j = 0 ∨ j ∈ ([1, 2, 3, 4, 5, 6, 7, 8, 9, 10, 11, 12, 13, 14, 15] : List (BitVec 4)) := by decide
  exact this j

theorem nearest_dist_lt (pal : Vector Color12 16) (t : Color12) : (nearest pal t).2 < 2 ^ 10 := by
  rw [(nearest_spec pal t).1]
  exact distance_lt _ _

end Sys2Proof.Machine
end

