-- ==== Sys2Proof/Laws/State.lean ====
section
/-! SUPPORT. One lemma per field per named update of the state, so that no proof unfolds a record update. -/

namespace Sys2Proof.Machine
@[simp] theorem State.setFfc_ffc (s : State) (v : Bool) : (s.setFfc v).ffc = v := rfl
@[simp] theorem State.setFfc_status (s : State) (v : Bool) : (s.setFfc v).status = s.status := rfl
@[simp] theorem State.setFfc_width (s : State) (v : Bool) : (s.setFfc v).width = s.width := rfl
@[simp] theorem State.setFfc_height (s : State) (v : Bool) : (s.setFfc v).height = s.height := rfl
@[simp] theorem State.setFfc_encPrev (s : State) (v : Bool) : (s.setFfc v).encPrev = s.encPrev := rfl
@[simp] theorem State.setFfc_encCount (s : State) (v : Bool) : (s.setFfc v).encCount = s.encCount := rfl
@[simp] theorem State.setFfc_encOut (s : State) (v : Bool) : (s.setFfc v).encOut = s.encOut := rfl
@[simp] theorem State.setFfc_decPrev (s : State) (v : Bool) : (s.setFfc v).decPrev = s.decPrev := rfl
@[simp] theorem State.setFfc_decCount (s : State) (v : Bool) : (s.setFfc v).decCount = s.decCount := rfl
@[simp] theorem State.setFfc_decOut (s : State) (v : Bool) : (s.setFfc v).decOut = s.decOut := rfl
@[simp] theorem State.setFfc_pal (s : State) (v : Bool) : (s.setFfc v).pal = s.pal := rfl
@[simp] theorem State.setFfc_lookupOut (s : State) (v : Bool) : (s.setFfc v).lookupOut = s.lookupOut := rfl
@[simp] theorem State.setFfc_mem (s : State) (v : Bool) : (s.setFfc v).mem = s.mem := rfl
@[simp] theorem State.setFfc_dthErr (s : State) (v : Bool) : (s.setFfc v).dthErr = s.dthErr := rfl
@[simp] theorem State.setFfc_params (s : State) (v : Bool) : (s.setFfc v).params = s.params := rfl
@[simp] theorem State.setFfc_port (s : State) (v : Bool) : (s.setFfc v).port = s.port := rfl
@[simp] theorem State.setFfc_readData (s : State) (v : Bool) : (s.setFfc v).readData = s.readData := rfl
@[simp] theorem frameSize_setFfc (s : State) (v : Bool) : frameSize (s.setFfc v) = frameSize s := rfl

@[simp] theorem State.setStatus_ffc (s : State) (v : BitVec 4) : (s.setStatus v).ffc = s.ffc := rfl
@[simp] theorem State.setStatus_status (s : State) (v : BitVec 4) : (s.setStatus v).status = v := rfl
@[simp] theorem State.setStatus_width (s : State) (v : BitVec 4) : (s.setStatus v).width = s.width := rfl
@[simp] theorem State.setStatus_height (s : State) (v : BitVec 4) : (s.setStatus v).height = s.height := rfl
@[simp] theorem State.setStatus_encPrev (s : State) (v : BitVec 4) : (s.setStatus v).encPrev = s.encPrev := rfl
@[simp] theorem State.setStatus_encCount (s : State) (v : BitVec 4) : (s.setStatus v).encCount = s.encCount := rfl
@[simp] theorem State.setStatus_encOut (s : State) (v : BitVec 4) : (s.setStatus v).encOut = s.encOut := rfl
@[simp] theorem State.setStatus_decPrev (s : State) (v : BitVec 4) : (s.setStatus v).decPrev = s.decPrev := rfl
@[simp] theorem State.setStatus_decCount (s : State) (v : BitVec 4) : (s.setStatus v).decCount = s.decCount := rfl
@[simp] theorem State.setStatus_decOut (s : State) (v : BitVec 4) : (s.setStatus v).decOut = s.decOut := rfl
@[simp] theorem State.setStatus_pal (s : State) (v : BitVec 4) : (s.setStatus v).pal = s.pal := rfl
@[simp] theorem State.setStatus_lookupOut (s : State) (v : BitVec 4) : (s.setStatus v).lookupOut = s.lookupOut := rfl
@[simp] theorem State.setStatus_mem (s : State) (v : BitVec 4) : (s.setStatus v).mem = s.mem := rfl
@[simp] theorem State.setStatus_dthErr (s : State) (v : BitVec 4) : (s.setStatus v).dthErr = s.dthErr := rfl
@[simp] theorem State.setStatus_params (s : State) (v : BitVec 4) : (s.setStatus v).params = s.params := rfl
@[simp] theorem State.setStatus_port (s : State) (v : BitVec 4) : (s.setStatus v).port = s.port := rfl
@[simp] theorem State.setStatus_readData (s : State) (v : BitVec 4) : (s.setStatus v).readData = s.readData := rfl
@[simp] theorem frameSize_setStatus (s : State) (v : BitVec 4) : frameSize (s.setStatus v) = frameSize s := rfl

@[simp] theorem State.setWidth_ffc (s : State) (v : BitVec 16) : (s.setWidth v).ffc = s.ffc := rfl
@[simp] theorem State.setWidth_status (s : State) (v : BitVec 16) : (s.setWidth v).status = s.status := rfl
@[simp] theorem State.setWidth_width (s : State) (v : BitVec 16) : (s.setWidth v).width = v := rfl
@[simp] theorem State.setWidth_height (s : State) (v : BitVec 16) : (s.setWidth v).height = s.height := rfl
@[simp] theorem State.setWidth_encPrev (s : State) (v : BitVec 16) : (s.setWidth v).encPrev = s.encPrev := rfl
@[simp] theorem State.setWidth_encCount (s : State) (v : BitVec 16) : (s.setWidth v).encCount = s.encCount := rfl
@[simp] theorem State.setWidth_encOut (s : State) (v : BitVec 16) : (s.setWidth v).encOut = s.encOut := rfl
@[simp] theorem State.setWidth_decPrev (s : State) (v : BitVec 16) : (s.setWidth v).decPrev = s.decPrev := rfl
@[simp] theorem State.setWidth_decCount (s : State) (v : BitVec 16) : (s.setWidth v).decCount = s.decCount := rfl
@[simp] theorem State.setWidth_decOut (s : State) (v : BitVec 16) : (s.setWidth v).decOut = s.decOut := rfl
@[simp] theorem State.setWidth_pal (s : State) (v : BitVec 16) : (s.setWidth v).pal = s.pal := rfl
@[simp] theorem State.setWidth_lookupOut (s : State) (v : BitVec 16) : (s.setWidth v).lookupOut = s.lookupOut := rfl
@[simp] theorem State.setWidth_mem (s : State) (v : BitVec 16) : (s.setWidth v).mem = s.mem := rfl
@[simp] theorem State.setWidth_dthErr (s : State) (v : BitVec 16) : (s.setWidth v).dthErr = s.dthErr := rfl
@[simp] theorem State.setWidth_params (s : State) (v : BitVec 16) : (s.setWidth v).params = s.params := rfl
@[simp] theorem State.setWidth_port (s : State) (v : BitVec 16) : (s.setWidth v).port = s.port := rfl
@[simp] theorem State.setWidth_readData (s : State) (v : BitVec 16) : (s.setWidth v).readData = s.readData := rfl

@[simp] theorem State.setHeight_ffc (s : State) (v : BitVec 16) : (s.setHeight v).ffc = s.ffc := rfl
@[simp] theorem State.setHeight_status (s : State) (v : BitVec 16) : (s.setHeight v).status = s.status := rfl
@[simp] theorem State.setHeight_width (s : State) (v : BitVec 16) : (s.setHeight v).width = s.width := rfl
@[simp] theorem State.setHeight_height (s : State) (v : BitVec 16) : (s.setHeight v).height = v := rfl
@[simp] theorem State.setHeight_encPrev (s : State) (v : BitVec 16) : (s.setHeight v).encPrev = s.encPrev := rfl
@[simp] theorem State.setHeight_encCount (s : State) (v : BitVec 16) : (s.setHeight v).encCount = s.encCount := rfl
@[simp] theorem State.setHeight_encOut (s : State) (v : BitVec 16) : (s.setHeight v).encOut = s.encOut := rfl
@[simp] theorem State.setHeight_decPrev (s : State) (v : BitVec 16) : (s.setHeight v).decPrev = s.decPrev := rfl
@[simp] theorem State.setHeight_decCount (s : State) (v : BitVec 16) : (s.setHeight v).decCount = s.decCount := rfl
@[simp] theorem State.setHeight_decOut (s : State) (v : BitVec 16) : (s.setHeight v).decOut = s.decOut := rfl
@[simp] theorem State.setHeight_pal (s : State) (v : BitVec 16) : (s.setHeight v).pal = s.pal := rfl
@[simp] theorem State.setHeight_lookupOut (s : State) (v : BitVec 16) : (s.setHeight v).lookupOut = s.lookupOut := rfl
@[simp] theorem State.setHeight_mem (s : State) (v : BitVec 16) : (s.setHeight v).mem = s.mem := rfl
@[simp] theorem State.setHeight_dthErr (s : State) (v : BitVec 16) : (s.setHeight v).dthErr = s.dthErr := rfl
@[simp] theorem State.setHeight_params (s : State) (v : BitVec 16) : (s.setHeight v).params = s.params := rfl
@[simp] theorem State.setHeight_port (s : State) (v : BitVec 16) : (s.setHeight v).port = s.port := rfl
@[simp] theorem State.setHeight_readData (s : State) (v : BitVec 16) : (s.setHeight v).readData = s.readData := rfl

@[simp] theorem State.setEnc_ffc (s : State) (p : Color12) (c : BitVec 32) : (s.setEnc p c).ffc = s.ffc := rfl
@[simp] theorem State.setEnc_status (s : State) (p : Color12) (c : BitVec 32) : (s.setEnc p c).status = s.status := rfl
@[simp] theorem State.setEnc_width (s : State) (p : Color12) (c : BitVec 32) : (s.setEnc p c).width = s.width := rfl
@[simp] theorem State.setEnc_height (s : State) (p : Color12) (c : BitVec 32) : (s.setEnc p c).height = s.height := rfl
@[simp] theorem State.setEnc_encPrev (s : State) (p : Color12) (c : BitVec 32) : (s.setEnc p c).encPrev = p := rfl
@[simp] theorem State.setEnc_encCount (s : State) (p : Color12) (c : BitVec 32) : (s.setEnc p c).encCount = c := rfl
@[simp] theorem State.setEnc_encOut (s : State) (p : Color12) (c : BitVec 32) : (s.setEnc p c).encOut = s.encOut := rfl
@[simp] theorem State.setEnc_decPrev (s : State) (p : Color12) (c : BitVec 32) : (s.setEnc p c).decPrev = s.decPrev := rfl
@[simp] theorem State.setEnc_decCount (s : State) (p : Color12) (c : BitVec 32) : (s.setEnc p c).decCount = s.decCount := rfl
@[simp] theorem State.setEnc_decOut (s : State) (p : Color12) (c : BitVec 32) : (s.setEnc p c).decOut = s.decOut := rfl
@[simp] theorem State.setEnc_pal (s : State) (p : Color12) (c : BitVec 32) : (s.setEnc p c).pal = s.pal := rfl
@[simp] theorem State.setEnc_lookupOut (s : State) (p : Color12) (c : BitVec 32) : (s.setEnc p c).lookupOut = s.lookupOut := rfl
@[simp] theorem State.setEnc_mem (s : State) (p : Color12) (c : BitVec 32) : (s.setEnc p c).mem = s.mem := rfl
@[simp] theorem State.setEnc_dthErr (s : State) (p : Color12) (c : BitVec 32) : (s.setEnc p c).dthErr = s.dthErr := rfl
@[simp] theorem State.setEnc_params (s : State) (p : Color12) (c : BitVec 32) : (s.setEnc p c).params = s.params := rfl
@[simp] theorem State.setEnc_port (s : State) (p : Color12) (c : BitVec 32) : (s.setEnc p c).port = s.port := rfl
@[simp] theorem State.setEnc_readData (s : State) (p : Color12) (c : BitVec 32) : (s.setEnc p c).readData = s.readData := rfl
@[simp] theorem frameSize_setEnc (s : State) (p : Color12) (c : BitVec 32) : frameSize (s.setEnc p c) = frameSize s := rfl

@[simp] theorem State.setEncOut_ffc (s : State) (v : BitVec 16) : (s.setEncOut v).ffc = s.ffc := rfl
@[simp] theorem State.setEncOut_status (s : State) (v : BitVec 16) : (s.setEncOut v).status = s.status := rfl
@[simp] theorem State.setEncOut_width (s : State) (v : BitVec 16) : (s.setEncOut v).width = s.width := rfl
@[simp] theorem State.setEncOut_height (s : State) (v : BitVec 16) : (s.setEncOut v).height = s.height := rfl
@[simp] theorem State.setEncOut_encPrev (s : State) (v : BitVec 16) : (s.setEncOut v).encPrev = s.encPrev := rfl
@[simp] theorem State.setEncOut_encCount (s : State) (v : BitVec 16) : (s.setEncOut v).encCount = s.encCount := rfl
@[simp] theorem State.setEncOut_encOut (s : State) (v : BitVec 16) : (s.setEncOut v).encOut = v := rfl
@[simp] theorem State.setEncOut_decPrev (s : State) (v : BitVec 16) : (s.setEncOut v).decPrev = s.decPrev := rfl
@[simp] theorem State.setEncOut_decCount (s : State) (v : BitVec 16) : (s.setEncOut v).decCount = s.decCount := rfl
@[simp] theorem State.setEncOut_decOut (s : State) (v : BitVec 16) : (s.setEncOut v).decOut = s.decOut := rfl
@[simp] theorem State.setEncOut_pal (s : State) (v : BitVec 16) : (s.setEncOut v).pal = s.pal := rfl
@[simp] theorem State.setEncOut_lookupOut (s : State) (v : BitVec 16) : (s.setEncOut v).lookupOut = s.lookupOut := rfl
@[simp] theorem State.setEncOut_mem (s : State) (v : BitVec 16) : (s.setEncOut v).mem = s.mem := rfl
@[simp] theorem State.setEncOut_dthErr (s : State) (v : BitVec 16) : (s.setEncOut v).dthErr = s.dthErr := rfl
@[simp] theorem State.setEncOut_params (s : State) (v : BitVec 16) : (s.setEncOut v).params = s.params := rfl
@[simp] theorem State.setEncOut_port (s : State) (v : BitVec 16) : (s.setEncOut v).port = s.port := rfl
@[simp] theorem State.setEncOut_readData (s : State) (v : BitVec 16) : (s.setEncOut v).readData = s.readData := rfl
@[simp] theorem frameSize_setEncOut (s : State) (v : BitVec 16) : frameSize (s.setEncOut v) = frameSize s := rfl

@[simp] theorem State.setDec_ffc (s : State) (p : Color12) (c : BitVec 32) : (s.setDec p c).ffc = s.ffc := rfl
@[simp] theorem State.setDec_status (s : State) (p : Color12) (c : BitVec 32) : (s.setDec p c).status = s.status := rfl
@[simp] theorem State.setDec_width (s : State) (p : Color12) (c : BitVec 32) : (s.setDec p c).width = s.width := rfl
@[simp] theorem State.setDec_height (s : State) (p : Color12) (c : BitVec 32) : (s.setDec p c).height = s.height := rfl
@[simp] theorem State.setDec_encPrev (s : State) (p : Color12) (c : BitVec 32) : (s.setDec p c).encPrev = s.encPrev := rfl
@[simp] theorem State.setDec_encCount (s : State) (p : Color12) (c : BitVec 32) : (s.setDec p c).encCount = s.encCount := rfl
@[simp] theorem State.setDec_encOut (s : State) (p : Color12) (c : BitVec 32) : (s.setDec p c).encOut = s.encOut := rfl
@[simp] theorem State.setDec_decPrev (s : State) (p : Color12) (c : BitVec 32) : (s.setDec p c).decPrev = p := rfl
@[simp] theorem State.setDec_decCount (s : State) (p : Color12) (c : BitVec 32) : (s.setDec p c).decCount = c := rfl
@[simp] theorem State.setDec_decOut (s : State) (p : Color12) (c : BitVec 32) : (s.setDec p c).decOut = s.decOut := rfl
@[simp] theorem State.setDec_pal (s : State) (p : Color12) (c : BitVec 32) : (s.setDec p c).pal = s.pal := rfl
@[simp] theorem State.setDec_lookupOut (s : State) (p : Color12) (c : BitVec 32) : (s.setDec p c).lookupOut = s.lookupOut := rfl
@[simp] theorem State.setDec_mem (s : State) (p : Color12) (c : BitVec 32) : (s.setDec p c).mem = s.mem := rfl
@[simp] theorem State.setDec_dthErr (s : State) (p : Color12) (c : BitVec 32) : (s.setDec p c).dthErr = s.dthErr := rfl
@[simp] theorem State.setDec_params (s : State) (p : Color12) (c : BitVec 32) : (s.setDec p c).params = s.params := rfl
@[simp] theorem State.setDec_port (s : State) (p : Color12) (c : BitVec 32) : (s.setDec p c).port = s.port := rfl
@[simp] theorem State.setDec_readData (s : State) (p : Color12) (c : BitVec 32) : (s.setDec p c).readData = s.readData := rfl
@[simp] theorem frameSize_setDec (s : State) (p : Color12) (c : BitVec 32) : frameSize (s.setDec p c) = frameSize s := rfl

@[simp] theorem State.setDecOut_ffc (s : State) (v : Rgb8) : (s.setDecOut v).ffc = s.ffc := rfl
@[simp] theorem State.setDecOut_status (s : State) (v : Rgb8) : (s.setDecOut v).status = s.status := rfl
@[simp] theorem State.setDecOut_width (s : State) (v : Rgb8) : (s.setDecOut v).width = s.width := rfl
@[simp] theorem State.setDecOut_height (s : State) (v : Rgb8) : (s.setDecOut v).height = s.height := rfl
@[simp] theorem State.setDecOut_encPrev (s : State) (v : Rgb8) : (s.setDecOut v).encPrev = s.encPrev := rfl
@[simp] theorem State.setDecOut_encCount (s : State) (v : Rgb8) : (s.setDecOut v).encCount = s.encCount := rfl
@[simp] theorem State.setDecOut_encOut (s : State) (v : Rgb8) : (s.setDecOut v).encOut = s.encOut := rfl
@[simp] theorem State.setDecOut_decPrev (s : State) (v : Rgb8) : (s.setDecOut v).decPrev = s.decPrev := rfl
@[simp] theorem State.setDecOut_decCount (s : State) (v : Rgb8) : (s.setDecOut v).decCount = s.decCount := rfl
@[simp] theorem State.setDecOut_decOut (s : State) (v : Rgb8) : (s.setDecOut v).decOut = v := rfl
@[simp] theorem State.setDecOut_pal (s : State) (v : Rgb8) : (s.setDecOut v).pal = s.pal := rfl
@[simp] theorem State.setDecOut_lookupOut (s : State) (v : Rgb8) : (s.setDecOut v).lookupOut = s.lookupOut := rfl
@[simp] theorem State.setDecOut_mem (s : State) (v : Rgb8) : (s.setDecOut v).mem = s.mem := rfl
@[simp] theorem State.setDecOut_dthErr (s : State) (v : Rgb8) : (s.setDecOut v).dthErr = s.dthErr := rfl
@[simp] theorem State.setDecOut_params (s : State) (v : Rgb8) : (s.setDecOut v).params = s.params := rfl
@[simp] theorem State.setDecOut_port (s : State) (v : Rgb8) : (s.setDecOut v).port = s.port := rfl
@[simp] theorem State.setDecOut_readData (s : State) (v : Rgb8) : (s.setDecOut v).readData = s.readData := rfl
@[simp] theorem frameSize_setDecOut (s : State) (v : Rgb8) : frameSize (s.setDecOut v) = frameSize s := rfl

@[simp] theorem State.setPal_ffc (s : State) (v : Vector Color12 16) : (s.setPal v).ffc = s.ffc := rfl
@[simp] theorem State.setPal_status (s : State) (v : Vector Color12 16) : (s.setPal v).status = s.status := rfl
@[simp] theorem State.setPal_width (s : State) (v : Vector Color12 16) : (s.setPal v).width = s.width := rfl
@[simp] theorem State.setPal_height (s : State) (v : Vector Color12 16) : (s.setPal v).height = s.height := rfl
@[simp] theorem State.setPal_encPrev (s : State) (v : Vector Color12 16) : (s.setPal v).encPrev = s.encPrev := rfl
@[simp] theorem State.setPal_encCount (s : State) (v : Vector Color12 16) : (s.setPal v).encCount = s.encCount := rfl
@[simp] theorem State.setPal_encOut (s : State) (v : Vector Color12 16) : (s.setPal v).encOut = s.encOut := rfl
@[simp] theorem State.setPal_decPrev (s : State) (v : Vector Color12 16) : (s.setPal v).decPrev = s.decPrev := rfl
@[simp] theorem State.setPal_decCount (s : State) (v : Vector Color12 16) : (s.setPal v).decCount = s.decCount := rfl
@[simp] theorem State.setPal_decOut (s : State) (v : Vector Color12 16) : (s.setPal v).decOut = s.decOut := rfl
@[simp] theorem State.setPal_pal (s : State) (v : Vector Color12 16) : (s.setPal v).pal = v := rfl
@[simp] theorem State.setPal_lookupOut (s : State) (v : Vector Color12 16) : (s.setPal v).lookupOut = s.lookupOut := rfl
@[simp] theorem State.setPal_mem (s : State) (v : Vector Color12 16) : (s.setPal v).mem = s.mem := rfl
@[simp] theorem State.setPal_dthErr (s : State) (v : Vector Color12 16) : (s.setPal v).dthErr = s.dthErr := rfl
@[simp] theorem State.setPal_params (s : State) (v : Vector Color12 16) : (s.setPal v).params = s.params := rfl
@[simp] theorem State.setPal_port (s : State) (v : Vector Color12 16) : (s.setPal v).port = s.port := rfl
@[simp] theorem State.setPal_readData (s : State) (v : Vector Color12 16) : (s.setPal v).readData = s.readData := rfl
@[simp] theorem frameSize_setPal (s : State) (v : Vector Color12 16) : frameSize (s.setPal v) = frameSize s := rfl

@[simp] theorem State.setLookupOut_ffc (s : State) (v : BitVec 14) : (s.setLookupOut v).ffc = s.ffc := rfl
@[simp] theorem State.setLookupOut_status (s : State) (v : BitVec 14) : (s.setLookupOut v).status = s.status := rfl
@[simp] theorem State.setLookupOut_width (s : State) (v : BitVec 14) : (s.setLookupOut v).width = s.width := rfl
@[simp] theorem State.setLookupOut_height (s : State) (v : BitVec 14) : (s.setLookupOut v).height = s.height := rfl
@[simp] theorem State.setLookupOut_encPrev (s : State) (v : BitVec 14) : (s.setLookupOut v).encPrev = s.encPrev := rfl
@[simp] theorem State.setLookupOut_encCount (s : State) (v : BitVec 14) : (s.setLookupOut v).encCount = s.encCount := rfl
@[simp] theorem State.setLookupOut_encOut (s : State) (v : BitVec 14) : (s.setLookupOut v).encOut = s.encOut := rfl
@[simp] theorem State.setLookupOut_decPrev (s : State) (v : BitVec 14) : (s.setLookupOut v).decPrev = s.decPrev := rfl
@[simp] theorem State.setLookupOut_decCount (s : State) (v : BitVec 14) : (s.setLookupOut v).decCount = s.decCount := rfl
@[simp] theorem State.setLookupOut_decOut (s : State) (v : BitVec 14) : (s.setLookupOut v).decOut = s.decOut := rfl
@[simp] theorem State.setLookupOut_pal (s : State) (v : BitVec 14) : (s.setLookupOut v).pal = s.pal := rfl
@[simp] theorem State.setLookupOut_lookupOut (s : State) (v : BitVec 14) : (s.setLookupOut v).lookupOut = v := rfl
@[simp] theorem State.setLookupOut_mem (s : State) (v : BitVec 14) : (s.setLookupOut v).mem = s.mem := rfl
@[simp] theorem State.setLookupOut_dthErr (s : State) (v : BitVec 14) : (s.setLookupOut v).dthErr = s.dthErr := rfl
@[simp] theorem State.setLookupOut_params (s : State) (v : BitVec 14) : (s.setLookupOut v).params = s.params := rfl
@[simp] theorem State.setLookupOut_port (s : State) (v : BitVec 14) : (s.setLookupOut v).port = s.port := rfl
@[simp] theorem State.setLookupOut_readData (s : State) (v : BitVec 14) : (s.setLookupOut v).readData = s.readData := rfl
@[simp] theorem frameSize_setLookupOut (s : State) (v : BitVec 14) : frameSize (s.setLookupOut v) = frameSize s := rfl

@[simp] theorem State.setMem_ffc (s : State) (v : Memory) : (s.setMem v).ffc = s.ffc := rfl
@[simp] theorem State.setMem_status (s : State) (v : Memory) : (s.setMem v).status = s.status := rfl
@[simp] theorem State.setMem_width (s : State) (v : Memory) : (s.setMem v).width = s.width := rfl
@[simp] theorem State.setMem_height (s : State) (v : Memory) : (s.setMem v).height = s.height := rfl
@[simp] theorem State.setMem_encPrev (s : State) (v : Memory) : (s.setMem v).encPrev = s.encPrev := rfl
@[simp] theorem State.setMem_encCount (s : State) (v : Memory) : (s.setMem v).encCount = s.encCount := rfl
@[simp] theorem State.setMem_encOut (s : State) (v : Memory) : (s.setMem v).encOut = s.encOut := rfl
@[simp] theorem State.setMem_decPrev (s : State) (v : Memory) : (s.setMem v).decPrev = s.decPrev := rfl
@[simp] theorem State.setMem_decCount (s : State) (v : Memory) : (s.setMem v).decCount = s.decCount := rfl
@[simp] theorem State.setMem_decOut (s : State) (v : Memory) : (s.setMem v).decOut = s.decOut := rfl
@[simp] theorem State.setMem_pal (s : State) (v : Memory) : (s.setMem v).pal = s.pal := rfl
@[simp] theorem State.setMem_lookupOut (s : State) (v : Memory) : (s.setMem v).lookupOut = s.lookupOut := rfl
@[simp] theorem State.setMem_mem (s : State) (v : Memory) : (s.setMem v).mem = v := rfl
@[simp] theorem State.setMem_dthErr (s : State) (v : Memory) : (s.setMem v).dthErr = s.dthErr := rfl
@[simp] theorem State.setMem_params (s : State) (v : Memory) : (s.setMem v).params = s.params := rfl
@[simp] theorem State.setMem_port (s : State) (v : Memory) : (s.setMem v).port = s.port := rfl
@[simp] theorem State.setMem_readData (s : State) (v : Memory) : (s.setMem v).readData = s.readData := rfl
@[simp] theorem frameSize_setMem (s : State) (v : Memory) : frameSize (s.setMem v) = frameSize s := rfl

@[simp] theorem State.setDthErr_ffc (s : State) (v : Rgb (BitVec 10)) : (s.setDthErr v).ffc = s.ffc := rfl
@[simp] theorem State.setDthErr_status (s : State) (v : Rgb (BitVec 10)) : (s.setDthErr v).status = s.status := rfl
@[simp] theorem State.setDthErr_width (s : State) (v : Rgb (BitVec 10)) : (s.setDthErr v).width = s.width := rfl
@[simp] theorem State.setDthErr_height (s : State) (v : Rgb (BitVec 10)) : (s.setDthErr v).height = s.height := rfl
@[simp] theorem State.setDthErr_encPrev (s : State) (v : Rgb (BitVec 10)) : (s.setDthErr v).encPrev = s.encPrev := rfl
@[simp] theorem State.setDthErr_encCount (s : State) (v : Rgb (BitVec 10)) : (s.setDthErr v).encCount = s.encCount := rfl
@[simp] theorem State.setDthErr_encOut (s : State) (v : Rgb (BitVec 10)) : (s.setDthErr v).encOut = s.encOut := rfl
@[simp] theorem State.setDthErr_decPrev (s : State) (v : Rgb (BitVec 10)) : (s.setDthErr v).decPrev = s.decPrev := rfl
@[simp] theorem State.setDthErr_decCount (s : State) (v : Rgb (BitVec 10)) : (s.setDthErr v).decCount = s.decCount := rfl
@[simp] theorem State.setDthErr_decOut (s : State) (v : Rgb (BitVec 10)) : (s.setDthErr v).decOut = s.decOut := rfl
@[simp] theorem State.setDthErr_pal (s : State) (v : Rgb (BitVec 10)) : (s.setDthErr v).pal = s.pal := rfl
@[simp] theorem State.setDthErr_lookupOut (s : State) (v : Rgb (BitVec 10)) : (s.setDthErr v).lookupOut = s.lookupOut := rfl
@[simp] theorem State.setDthErr_mem (s : State) (v : Rgb (BitVec 10)) : (s.setDthErr v).mem = s.mem := rfl
@[simp] theorem State.setDthErr_dthErr (s : State) (v : Rgb (BitVec 10)) : (s.setDthErr v).dthErr = v := rfl
@[simp] theorem State.setDthErr_params (s : State) (v : Rgb (BitVec 10)) : (s.setDthErr v).params = s.params := rfl
@[simp] theorem State.setDthErr_port (s : State) (v : Rgb (BitVec 10)) : (s.setDthErr v).port = s.port := rfl
@[simp] theorem State.setDthErr_readData (s : State) (v : Rgb (BitVec 10)) : (s.setDthErr v).readData = s.readData := rfl
@[simp] theorem frameSize_setDthErr (s : State) (v : Rgb (BitVec 10)) : frameSize (s.setDthErr v) = frameSize s := rfl

@[simp] theorem State.setPort_ffc (s : State) (v : List HostEvent) : (s.setPort v).ffc = s.ffc := rfl
@[simp] theorem State.setPort_status (s : State) (v : List HostEvent) : (s.setPort v).status = s.status := rfl
@[simp] theorem State.setPort_width (s : State) (v : List HostEvent) : (s.setPort v).width = s.width := rfl
@[simp] theorem State.setPort_height (s : State) (v : List HostEvent) : (s.setPort v).height = s.height := rfl
@[simp] theorem State.setPort_encPrev (s : State) (v : List HostEvent) : (s.setPort v).encPrev = s.encPrev := rfl
@[simp] theorem State.setPort_encCount (s : State) (v : List HostEvent) : (s.setPort v).encCount = s.encCount := rfl
@[simp] theorem State.setPort_encOut (s : State) (v : List HostEvent) : (s.setPort v).encOut = s.encOut := rfl
@[simp] theorem State.setPort_decPrev (s : State) (v : List HostEvent) : (s.setPort v).decPrev = s.decPrev := rfl
@[simp] theorem State.setPort_decCount (s : State) (v : List HostEvent) : (s.setPort v).decCount = s.decCount := rfl
@[simp] theorem State.setPort_decOut (s : State) (v : List HostEvent) : (s.setPort v).decOut = s.decOut := rfl
@[simp] theorem State.setPort_pal (s : State) (v : List HostEvent) : (s.setPort v).pal = s.pal := rfl
@[simp] theorem State.setPort_lookupOut (s : State) (v : List HostEvent) : (s.setPort v).lookupOut = s.lookupOut := rfl
@[simp] theorem State.setPort_mem (s : State) (v : List HostEvent) : (s.setPort v).mem = s.mem := rfl
@[simp] theorem State.setPort_dthErr (s : State) (v : List HostEvent) : (s.setPort v).dthErr = s.dthErr := rfl
@[simp] theorem State.setPort_params (s : State) (v : List HostEvent) : (s.setPort v).params = s.params := rfl
@[simp] theorem State.setPort_port (s : State) (v : List HostEvent) : (s.setPort v).port = v := rfl
@[simp] theorem State.setPort_readData (s : State) (v : List HostEvent) : (s.setPort v).readData = s.readData := rfl
@[simp] theorem frameSize_setPort (s : State) (v : List HostEvent) : frameSize (s.setPort v) = frameSize s := rfl

@[simp] theorem State.setReadData_ffc (s : State) (v : Word) : (s.setReadData v).ffc = s.ffc := rfl
@[simp] theorem State.setReadData_status (s : State) (v : Word) : (s.setReadData v).status = s.status := rfl
@[simp] theorem State.setReadData_width (s : State) (v : Word) : (s.setReadData v).width = s.width := rfl
@[simp] theorem State.setReadData_height (s : State) (v : Word) : (s.setReadData v).height = s.height := rfl
@[simp] theorem State.setReadData_encPrev (s : State) (v : Word) : (s.setReadData v).encPrev = s.encPrev := rfl
@[simp] theorem State.setReadData_encCount (s : State) (v : Word) : (s.setReadData v).encCount = s.encCount := rfl
@[simp] theorem State.setReadData_encOut (s : State) (v : Word) : (s.setReadData v).encOut = s.encOut := rfl
@[simp] theorem State.setReadData_decPrev (s : State) (v : Word) : (s.setReadData v).decPrev = s.decPrev := rfl
@[simp] theorem State.setReadData_decCount (s : State) (v : Word) : (s.setReadData v).decCount = s.decCount := rfl
@[simp] theorem State.setReadData_decOut (s : State) (v : Word) : (s.setReadData v).decOut = s.decOut := rfl
@[simp] theorem State.setReadData_pal (s : State) (v : Word) : (s.setReadData v).pal = s.pal := rfl
@[simp] theorem State.setReadData_lookupOut (s : State) (v : Word) : (s.setReadData v).lookupOut = s.lookupOut := rfl
@[simp] theorem State.setReadData_mem (s : State) (v : Word) : (s.setReadData v).mem = s.mem := rfl
@[simp] theorem State.setReadData_dthErr (s : State) (v : Word) : (s.setReadData v).dthErr = s.dthErr := rfl
@[simp] theorem State.setReadData_params (s : State) (v : Word) : (s.setReadData v).params = s.params := rfl
@[simp] theorem State.setReadData_port (s : State) (v : Word) : (s.setReadData v).port = s.port := rfl
@[simp] theorem State.setReadData_readData (s : State) (v : Word) : (s.setReadData v).readData = v := rfl
@[simp] theorem frameSize_setReadData (s : State) (v : Word) : frameSize (s.setReadData v) = frameSize s := rfl

@[simp] theorem raiseError_ffc (e : ErrorName) (s : State) : (raiseError e s).ffc = s.ffc := rfl
@[simp] theorem raiseError_status (e : ErrorName) (s : State) : (raiseError e s).status = statusRaise e s.status := rfl
@[simp] theorem raiseError_width (e : ErrorName) (s : State) : (raiseError e s).width = s.width := rfl
@[simp] theorem raiseError_height (e : ErrorName) (s : State) : (raiseError e s).height = s.height := rfl
@[simp] theorem raiseError_encPrev (e : ErrorName) (s : State) : (raiseError e s).encPrev = s.encPrev := rfl
@[simp] theorem raiseError_encCount (e : ErrorName) (s : State) : (raiseError e s).encCount = s.encCount := rfl
@[simp] theorem raiseError_encOut (e : ErrorName) (s : State) : (raiseError e s).encOut = s.encOut := rfl
@[simp] theorem raiseError_decPrev (e : ErrorName) (s : State) : (raiseError e s).decPrev = s.decPrev := rfl
@[simp] theorem raiseError_decCount (e : ErrorName) (s : State) : (raiseError e s).decCount = s.decCount := rfl
@[simp] theorem raiseError_decOut (e : ErrorName) (s : State) : (raiseError e s).decOut = s.decOut := rfl
@[simp] theorem raiseError_pal (e : ErrorName) (s : State) : (raiseError e s).pal = s.pal := rfl
@[simp] theorem raiseError_lookupOut (e : ErrorName) (s : State) : (raiseError e s).lookupOut = s.lookupOut := rfl
@[simp] theorem raiseError_mem (e : ErrorName) (s : State) : (raiseError e s).mem = s.mem := rfl
@[simp] theorem raiseError_dthErr (e : ErrorName) (s : State) : (raiseError e s).dthErr = s.dthErr := rfl
@[simp] theorem raiseError_params (e : ErrorName) (s : State) : (raiseError e s).params = s.params := rfl
@[simp] theorem raiseError_port (e : ErrorName) (s : State) : (raiseError e s).port = s.port := rfl
@[simp] theorem raiseError_readData (e : ErrorName) (s : State) : (raiseError e s).readData = s.readData := rfl
@[simp] theorem frameSize_raiseError (e : ErrorName) (s : State) : frameSize (raiseError e s) = frameSize s := rfl

@[simp] theorem respond_ffc (v : Word) (s : State) : (respond v s).ffc = s.ffc := rfl
@[simp] theorem respond_status (v : Word) (s : State) : (respond v s).status = s.status := rfl
@[simp] theorem respond_width (v : Word) (s : State) : (respond v s).width = s.width := rfl
@[simp] theorem respond_height (v : Word) (s : State) : (respond v s).height = s.height := rfl
@[simp] theorem respond_encPrev (v : Word) (s : State) : (respond v s).encPrev = s.encPrev := rfl
@[simp] theorem respond_encCount (v : Word) (s : State) : (respond v s).encCount = s.encCount := rfl
@[simp] theorem respond_encOut (v : Word) (s : State) : (respond v s).encOut = s.encOut := rfl
@[simp] theorem respond_decPrev (v : Word) (s : State) : (respond v s).decPrev = s.decPrev := rfl
@[simp] theorem respond_decCount (v : Word) (s : State) : (respond v s).decCount = s.decCount := rfl
@[simp] theorem respond_decOut (v : Word) (s : State) : (respond v s).decOut = s.decOut := rfl
@[simp] theorem respond_pal (v : Word) (s : State) : (respond v s).pal = s.pal := rfl
@[simp] theorem respond_lookupOut (v : Word) (s : State) : (respond v s).lookupOut = s.lookupOut := rfl
@[simp] theorem respond_mem (v : Word) (s : State) : (respond v s).mem = s.mem := rfl
@[simp] theorem respond_dthErr (v : Word) (s : State) : (respond v s).dthErr = s.dthErr := rfl
@[simp] theorem respond_params (v : Word) (s : State) : (respond v s).params = s.params := rfl
@[simp] theorem respond_port (v : Word) (s : State) : (respond v s).port = s.port := rfl
@[simp] theorem respond_readData (v : Word) (s : State) : (respond v s).readData = v := rfl
@[simp] theorem frameSize_respond (v : Word) (s : State) : frameSize (respond v s) = frameSize s := rfl

@[simp] theorem State.afterReset_ffc (p : Params) (port : List HostEvent) : (State.afterReset p port).ffc = false := rfl
@[simp] theorem State.afterReset_status (p : Params) (port : List HostEvent) : (State.afterReset p port).status = 0 := rfl
@[simp] theorem State.afterReset_width (p : Params) (port : List HostEvent) : (State.afterReset p port).width = 0 := rfl
@[simp] theorem State.afterReset_height (p : Params) (port : List HostEvent) : (State.afterReset p port).height = 0 := rfl
@[simp] theorem State.afterReset_encPrev (p : Params) (port : List HostEvent) : (State.afterReset p port).encPrev = ⟨0, 0, 0⟩ := rfl
@[simp] theorem State.afterReset_encCount (p : Params) (port : List HostEvent) : (State.afterReset p port).encCount = 0 := rfl
@[simp] theorem State.afterReset_encOut (p : Params) (port : List HostEvent) : (State.afterReset p port).encOut = 0 := rfl
@[simp] theorem State.afterReset_decPrev (p : Params) (port : List HostEvent) : (State.afterReset p port).decPrev = ⟨0, 0, 0⟩ := rfl
@[simp] theorem State.afterReset_decCount (p : Params) (port : List HostEvent) : (State.afterReset p port).decCount = 0 := rfl
@[simp] theorem State.afterReset_decOut (p : Params) (port : List HostEvent) : (State.afterReset p port).decOut = ⟨0, 0, 0⟩ := rfl
@[simp] theorem State.afterReset_pal (p : Params) (port : List HostEvent) : (State.afterReset p port).pal = p.resetPalette := rfl
@[simp] theorem State.afterReset_lookupOut (p : Params) (port : List HostEvent) : (State.afterReset p port).lookupOut = 0 := rfl
@[simp] theorem State.afterReset_mem (p : Params) (port : List HostEvent) : (State.afterReset p port).mem = [] := rfl
@[simp] theorem State.afterReset_dthErr (p : Params) (port : List HostEvent) : (State.afterReset p port).dthErr = ⟨0, 0, 0⟩ := rfl
@[simp] theorem State.afterReset_params (p : Params) (port : List HostEvent) : (State.afterReset p port).params = p := rfl
@[simp] theorem State.afterReset_port (p : Params) (port : List HostEvent) : (State.afterReset p port).port = port := rfl
@[simp] theorem State.afterReset_readData (p : Params) (port : List HostEvent) : (State.afterReset p port).readData = 0 := rfl

/-- Two states with the same fields are the same state. -/
theorem State.ext_fields {s t : State} (h0 : s.ffc = t.ffc) (h1 : s.status = t.status) (h2 : s.width = t.width) (h3 : s.height = t.height) (h4 : s.encPrev = t.encPrev) (h5 : s.encCount = t.encCount) (h6 : s.encOut = t.encOut) (h7 : s.decPrev = t.decPrev) (h8 : s.decCount = t.decCount) (h9 : s.decOut = t.decOut) (h10 : s.pal = t.pal) (h11 : s.lookupOut = t.lookupOut) (h12 : s.mem = t.mem) (h13 : s.dthErr = t.dthErr) (h14 : s.params = t.params) (h15 : s.port = t.port) (h16 : s.readData = t.readData) : s = t := by
  cases s; cases t; simp_all

end Sys2Proof.Machine
end

