-- ==== Sys2Proof/Laws/Codec.lean ====
section
/-! SUPPORT. What the encoder's selection finds, and what one encoder or decoder step can do. -/

namespace Sys2Proof.Machine

/-- `c` is the first of the candidates `l` at the smallest distance (42_encoder.md R163). -/
def FirstMinimum (l : List Candidate) (c : Candidate) : Prop :=
  ∃ k : Nat, l[k]? = some c ∧ ∀ (j : Nat) (c' : Candidate), l[j]? = some c' → c.d ≤ c'.d ∧ (j < k → c.d < c'.d)

/-- One comparison takes in one more candidate. -/
theorem firstMinimum_snoc {l : List Candidate} {best : Candidate} (h : FirstMinimum l best) (c : Candidate) :
    FirstMinimum (l ++ [c]) (betterCandidate best c) := by
  obtain ⟨k, hk, hmin⟩ := h
  have hlt : k < l.length := by
    rcases List.getElem?_eq_some_iff.1 hk with ⟨h, -⟩; exact h
  have hsplit : ∀ (j : Nat) (c' : Candidate), (l ++ [c])[j]? = some c' → l[j]? = some c' ∨ (j = l.length ∧ c' = c) := by
    intro j c' hj
    by_cases hjl : j < l.length
    · exact .inl (by rwa [List.getElem?_append_left hjl] at hj)
    · rw [List.getElem?_append_right (by omega)] at hj
      have h0 : j - l.length = 0 := by
        by_contra hne
        rw [List.getElem?_eq_none (by simp; omega)] at hj
        cases hj
      rw [h0] at hj
      simp only [List.getElem?_cons_zero, Option.some.injEq] at hj
      exact .inr ⟨by omega, hj.symm⟩
  unfold betterCandidate
  split
  · rename_i hc
    refine ⟨l.length, by simp, fun j c' hj => ?_⟩
    rcases hsplit j c' hj with hj | ⟨rfl, rfl⟩
    · have := hmin j c' hj
      exact ⟨by omega, fun _ => by omega⟩
    · exact ⟨le_refl _, fun h => absurd h (lt_irrefl _)⟩
  · rename_i hc
    refine ⟨k, by rwa [List.getElem?_append_left hlt], fun j c' hj => ?_⟩
    rcases hsplit j c' hj with hj | ⟨rfl, rfl⟩
    · exact hmin j c' hj
    · exact ⟨by omega, fun h => by omega⟩

theorem firstMinimum_foldl (l : List Candidate) :
    ∀ {pre : List Candidate} {best : Candidate}, FirstMinimum pre best →
      FirstMinimum (pre ++ l) (l.foldl betterCandidate best) := by
  induction l with
  | nil => intro pre best h; simpa using h
  | cons c l ih =>
    intro pre best h
    simpa using ih (firstMinimum_snoc h c)

/-- The selected candidate is the first of the four at the smallest distance (42_encoder.md R163). -/
theorem selectCandidate_spec (pal : Vector Color12 16) (p t : Color12) :
    FirstMinimum (paletteCandidate pal t :: modifyCandidates p t) (selectCandidate pal p t) := by
  refine firstMinimum_foldl (modifyCandidates p t) (pre := [paletteCandidate pal t]) ⟨0, rfl, ?_⟩
  intro j c hj
  match j, hj with
  | 0, hj =>
    rw [List.getElem?_cons_zero, Option.some.injEq] at hj
    rw [hj]
    exact ⟨le_refl _, fun h => absurd h (lt_irrefl _)⟩
  | j + 1, hj => simp at hj

theorem selectCandidate_mem (pal : Vector Color12 16) (p t : Color12) :
    selectCandidate pal p t ∈ paletteCandidate pal t :: modifyCandidates p t := by
  obtain ⟨k, hk, -⟩ := selectCandidate_spec pal p t
  exact List.mem_of_getElem? hk

/-- Every candidate's distance is that of its colour to the target (42_encoder.md R162). -/
theorem candidate_dist {pal : Vector Color12 16} {p t : Color12} {c : Candidate}
    (h : c ∈ paletteCandidate pal t :: modifyCandidates p t) : c.d = distance c.col t := by
  rcases List.mem_cons.1 h with h | h
  · rw [h]
    simp only [paletteCandidate]
    exact (nearest_spec pal t).1
  · simp only [modifyCandidates, List.mem_cons, List.not_mem_nil, or_false] at h
    rcases h with rfl | rfl | rfl <;> rfl

theorem chooseCandidate_dist (s : State) (t : Color12) :
    (chooseCandidate s t).d = distance (chooseCandidate s t).col t := by
  unfold chooseCandidate
  split
  · exact candidate_dist (List.mem_cons_self (l := modifyCandidates s.encPrev t))
  · exact candidate_dist (selectCandidate_mem s.pal s.encPrev t)

/-- The largest frame (10_state.md R26). -/
theorem frameSize_le (s : State) : frameSize s ≤ 4294836225 := by
  have h1 : s.width.toNat ≤ 65535 := by have := s.width.isLt; omega
  have h2 : s.height.toNat ≤ 65535 := by have := s.height.isLt; omega
  exact Nat.mul_le_mul h1 h2

/-- A counter below the frame size advances by exactly 1 (10_state.md R30, R34). -/
theorem count_succ {s : State} {c : BitVec 32} (h : c.toNat < frameSize s) : (c + 1).toNat = c.toNat + 1 := by
  have := frameSize_le s
  rw [BitVec.toNat_add]
  simp
  omega

/-- All that an `ENC_IN` write can do. -/
theorem execEncInW_cases (v : Word) (s : State) :
    (frameSize s ≤ s.encCount.toNat ∧ execEncInW v s = .next (raiseError .encOvf s)) ∨
    (s.encCount.toNat < frameSize s ∧
      execEncInW v s = .next (encodeUpdate (chooseCandidate s (quantize (rgb8Of v))) s)) := by
  unfold execEncInW
  split
  · rename_i h; exact .inl ⟨h, rfl⟩
  · rename_i h; exact .inr ⟨by omega, rfl⟩

/-- All that a decoder step can do. -/
theorem decodeStep_cases (c : Color12) (s : State) :
    (frameSize s ≤ s.decCount.toNat ∧ decodeStep c s = raiseError .decOvf s) ∨
    (s.decCount.toNat < frameSize s ∧ decodeStep c s = decodeUpdate c s) := by
  unfold decodeStep
  split
  · rename_i h; exact .inl ⟨h, rfl⟩
  · rename_i h; exact .inr ⟨by omega, rfl⟩

/-- A `DEC_IN` write is one decoder step with some colour. -/
theorem execDecInW_step (v : Word) (s : State) : ∃ c, execDecInW v s = .next (decodeStep c s) := by
  unfold execDecInW
  dsimp only
  split <;> exact ⟨_, rfl⟩

end Sys2Proof.Machine
end

