-- ==== Sys2Proof/Laws/Memory.lean ====
section
/-! SUPPORT. The laws of the frame-buffer memory: read after write, frames, and the canonical form, by byte and by word. -/

namespace Sys2Proof.Machine

/-! ### Bytes -/

@[simp] theorem Memory.read_nil (a : Nat) : Memory.read [] a = none := rfl

theorem Memory.read_cons (k : Nat) (b : Byte) (m : Memory) (a : Nat) :
    Memory.read ((k, b) :: m) a = if k = a then some b else Memory.read m a := rfl

@[simp] theorem Memory.read_write_same (m : Memory) (a : Nat) (v : Byte) : (Memory.write m a v).read a = some v := by
  induction m with
  | nil => simp [Memory.write, Memory.read]
  | cons e m ih =>
    obtain ⟨k, b⟩ := e
    simp only [Memory.write]
    split
    · simp [Memory.read]
    · split
      · simp [Memory.read]
      · rename_i h
        simp [Memory.read, ih, Ne.symm h]

theorem Memory.read_write_ne (m : Memory) {a c : Nat} (v : Byte) (h : c ≠ a) :
    (Memory.write m a v).read c = m.read c := by
  induction m with
  | nil => simp [Memory.write, Memory.read, Ne.symm h]
  | cons e m ih =>
    obtain ⟨k, b⟩ := e
    simp only [Memory.write]
    split
    · simp [Memory.read, Ne.symm h]
    · split
      · rename_i hk
        subst hk
        simp [Memory.read, Ne.symm h]
      · simp [Memory.read, ih]

/-- A byte written reads back, every other byte is as before. -/
theorem Memory.read_write (m : Memory) (a c : Nat) (v : Byte) :
    (Memory.write m a v).read c = if c = a then some v else m.read c := by
  split
  · rename_i h; subst h; simp
  · rename_i h; exact Memory.read_write_ne m v h

theorem Memory.above_mono {lo hi : Nat} (h : lo ≤ hi) : ∀ {m : Memory}, m.above hi = true → m.above lo = true
  | [], _ => rfl
  | (k, _) :: m, hm => by
    simp only [Memory.above, Bool.and_eq_true, decide_eq_true_eq] at hm ⊢
    exact ⟨by omega, Memory.above_mono h hm.2⟩

theorem Memory.above_write {lo : Nat} (a : Nat) (v : Byte) (ha : lo < a) :
    ∀ {m : Memory}, m.above lo = true → (m.write a v).above lo = true
  | [], _ => by simp [Memory.write, Memory.above, ha]
  | (k, b) :: m, hm => by
    simp only [Memory.above, Bool.and_eq_true, decide_eq_true_eq] at hm
    simp only [Memory.write]
    split
    · simp [Memory.above, ha, hm.1, hm.2]
    · split
      · simp [Memory.above, ha, hm.2]
      · simp [Memory.above, hm.1, Memory.above_write a v ha hm.2]

/-- A write keeps the canonical form. -/
theorem Memory.wf_write (a : Nat) (v : Byte) : ∀ {m : Memory}, m.wf = true → (m.write a v).wf = true
  | [], _ => rfl
  | (k, b) :: m, hm => by
    simp only [Memory.wf, Bool.and_eq_true] at hm
    simp only [Memory.write]
    split
    · rename_i h
      simp [Memory.wf, Memory.above, h, hm.1, hm.2, Memory.above_mono (Nat.le_of_lt h) hm.1]
    · split
      · rename_i h
        subst h
        simp [Memory.wf, hm.1, hm.2]
      · rename_i h1 h2
        have hk : k < a := by omega
        simp [Memory.wf, Memory.above_write a v hk hm.1, Memory.wf_write a v hm.2]

@[simp] theorem Memory.wf_nil : Memory.wf [] = true := rfl

/-- The memory after reset is in canonical form. -/
theorem State.reset_mem_wf : State.reset.mem.wf = true := rfl

/-! ### Frame-buffer words -/

theorem fbRead_eq_some {m : Memory} {n : Nat} {p : Rgb8} :
    fbRead m n = some p ↔
      m.read (fbAddr n + 2) = some p.r ∧ m.read (fbAddr n + 1) = some p.g ∧ m.read (fbAddr n) = some p.b := by
  unfold fbRead
  split
  · rename_i r g b hr hg hb
    constructor
    · intro h
      cases h
      exact ⟨hr, hg, hb⟩
    · rintro ⟨h1, h2, h3⟩
      rw [hr] at h1; rw [hg] at h2; rw [hb] at h3
      cases h1; cases h2; cases h3
      rfl
  · rename_i hno
    constructor
    · intro h; cases h
    · rintro ⟨h1, h2, h3⟩
      exact absurd h3 (hno _ _ _ h1 h2)

/-- Which byte a word write leaves where. -/
theorem Memory.read_fbWrite (m : Memory) (n : Nat) (p : Rgb8) (a : Nat) :
    (fbWrite m n p).read a =
      if a = fbAddr n + 2 then some p.r
      else if a = fbAddr n + 1 then some p.g
      else if a = fbAddr n then some p.b
      else m.read a := by
  simp only [fbWrite, Memory.read_write]

/-- A word write changes no byte outside the word. -/
theorem Memory.read_fbWrite_outside (m : Memory) (n : Nat) (p : Rgb8) {a : Nat}
    (h : a < fbAddr n ∨ fbAddr n + 2 < a) : (fbWrite m n p).read a = m.read a := by
  rw [Memory.read_fbWrite, if_neg (by omega), if_neg (by omega), if_neg (by omega)]

@[simp] theorem fbRead_fbWrite_same (m : Memory) (n : Nat) (p : Rgb8) : fbRead (fbWrite m n p) n = some p := by
  rw [fbRead_eq_some]
  simp [Memory.read_fbWrite]

theorem fbRead_congr {m m' : Memory} {n : Nat}
    (h : ∀ a, fbAddr n ≤ a → a ≤ fbAddr n + 2 → m'.read a = m.read a) : fbRead m' n = fbRead m n := by
  unfold fbRead
  rw [h _ (by omega) (by omega), h _ (by omega) (by omega), h _ (by omega) (by omega)]

theorem fbRead_fbWrite_ne (m : Memory) {n k : Nat} (p : Rgb8) (h : k ≠ n) : fbRead (fbWrite m n p) k = fbRead m k := by
  apply fbRead_congr
  intro a h1 h2
  apply Memory.read_fbWrite_outside
  unfold fbAddr at *
  omega

/-- A word written reads back, every other word is as before (20_memory.md R69). -/
theorem fbRead_fbWrite (m : Memory) (n k : Nat) (p : Rgb8) :
    fbRead (fbWrite m n p) k = if k = n then some p else fbRead m k := by
  split
  · rename_i h; subst h; simp
  · rename_i h; exact fbRead_fbWrite_ne m p h

@[simp] theorem fbRead_nil (n : Nat) : fbRead [] n = none := rfl

/-- A word write keeps the canonical form. -/
theorem wf_fbWrite {m : Memory} (n : Nat) (p : Rgb8) (h : m.wf = true) : (fbWrite m n p).wf = true :=
  Memory.wf_write _ _ (Memory.wf_write _ _ (Memory.wf_write _ _ h))

end Sys2Proof.Machine
end

