-- ==== Sys2Proof/Laws/Dither.lean ====
section
/-! SUPPORT. What a pass of the dither engine can do: the loop's induction, once, and the frame of every pass. -/

namespace Sys2Proof.Machine

/-! ### The loop -/

@[simp] theorem forEach_nil {α : Type} (body : α → State → Except Fault State) (s : State) : forEach body [] s = .ok s := rfl

theorem forEach_cons {α : Type} (body : α → State → Except Fault State) (a : α) (as : List α) (s : State) :
    forEach body (a :: as) s = match body a s with
      | .ok t => forEach body as t
      | .error f => .error f := rfl

theorem forEach_cons_ok {α : Type} {body : α → State → Except Fault State} {a : α} {as : List α} {s t : State}
    (h : body a s = .ok t) : forEach body (a :: as) s = forEach body as t := by
  rw [forEach_cons, h]

theorem forEach_append_ok {α : Type} {body : α → State → Except Fault State} {as bs : List α} :
    ∀ {s t : State}, forEach body as s = .ok t → forEach body (as ++ bs) s = forEach body bs t := by
  induction as with
  | nil => intro s t h; cases h; rfl
  | cons a as ih =>
    intro s t h
    rw [List.cons_append, forEach_cons]
    rw [forEach_cons] at h
    split at h
    · exact ih h
    · cases h

/-- A loop whose body completes and relates its states completes, and relates its ends. -/
theorem forEach_ok {α : Type} {body : α → State → Except Fault State} {P : State → Prop} {as : List α}
    (hb : ∀ a ∈ as, ∀ s, P s → ∃ t, body a s = .ok t ∧ P t) :
    ∀ {s : State}, P s → ∃ t, forEach body as s = .ok t ∧ P t := by
  induction as with
  | nil => intro s h; exact ⟨s, rfl, h⟩
  | cons a as ih =>
    intro s h
    obtain ⟨t, ht, hp⟩ := hb a (by simp) s h
    rw [forEach_cons_ok ht]
    exact ih (fun b hb' => hb b (by simp [hb'])) hp

/-- A property that the body keeps holds at the end of the loop. -/
theorem forEach_keeps {α : Type} {body : α → State → Except Fault State} {P : State → Prop} {as : List α}
    (hb : ∀ a ∈ as, ∀ s t, P s → body a s = .ok t → P t) :
    ∀ {s t : State}, P s → forEach body as s = .ok t → P t := by
  induction as with
  | nil => intro s t h he; cases he; exact h
  | cons a as ih =>
    intro s t h he
    rw [forEach_cons] at he
    split at he
    · rename_i u hu
      exact ih (fun b hb' => hb b (by simp [hb'])) (hb a (by simp) s u h hu) he
    · cases he

/-- A loop that faults faults in its body, in a state with every property that the body keeps. -/
theorem forEach_error {α : Type} {body : α → State → Except Fault State} {P : State → Prop} {as : List α}
    (hb : ∀ a ∈ as, ∀ s t, P s → body a s = .ok t → P t) :
    ∀ {s : State} {f : Fault}, P s → forEach body as s = .error f → ∃ a ∈ as, ∃ t, P t ∧ body a t = .error f := by
  induction as with
  | nil => intro s f h he; cases he
  | cons a as ih =>
    intro s f h he
    rw [forEach_cons] at he
    split at he
    · rename_i u hu
      obtain ⟨b, hbm, t, ht, hf⟩ := ih (fun b hb' => hb b (by simp [hb'])) (hb a (by simp) s u h hu) he
      exact ⟨b, by simp [hbm], t, ht, hf⟩
    · rename_i g hg
      cases he
      exact ⟨a, by simp, s, h, hg⟩

/-! ### Ranges -/

theorem mem_span {a b v : Int} : v ∈ span a b ↔ a ≤ v ∧ v ≤ b := by
  simp only [span, List.mem_map, List.mem_range]
  constructor
  · rintro ⟨k, hk, rfl⟩; omega
  · rintro ⟨h1, h2⟩; exact ⟨(v - a).toNat, by omega, by omega⟩

theorem mem_raster {x0 x1 y0 y1 x y : Int} :
    (x, y) ∈ raster x0 x1 y0 y1 ↔ (x0 ≤ x ∧ x ≤ x1) ∧ (y0 ≤ y ∧ y ≤ y1) := by
  simp only [raster, List.mem_flatMap, List.mem_map, mem_span, Prod.mk.injEq]
  constructor
  · rintro ⟨y', hy, x', hx, rfl, rfl⟩; exact ⟨hx, hy⟩
  · rintro ⟨hx, hy⟩; exact ⟨y, hy, x, hx, rfl, rfl⟩

/-- A pixel of the raster is one of its `W * H` words (44_dither.md R220). -/
theorem pixelIndex_lt {s : State} {x y : Int} (hx : 0 ≤ x ∧ x < s.width.toNat) (hy : 0 ≤ y ∧ y < s.height.toNat) :
    pixelIndex s x y < frameSize s := by
  obtain ⟨a, rfl⟩ := Int.eq_ofNat_of_zero_le hx.1
  obtain ⟨b, rfl⟩ := Int.eq_ofNat_of_zero_le hy.1
  have ha : a < s.width.toNat := by omega
  have hb : b + 1 ≤ s.height.toNat := by omega
  have h : pixelIndex s a b = b * s.width.toNat + a := by
    unfold pixelIndex
    have : ((b : Int) * (s.width.toNat : Int) + (a : Int)) = ((b * s.width.toNat + a : Nat) : Int) := by push_cast; rfl
    rw [this, Int.toNat_natCast]
  rw [h, frameSize, Nat.mul_comm s.width.toNat]
  calc b * s.width.toNat + a < b * s.width.toNat + s.width.toNat := by omega
    _ = (b + 1) * s.width.toNat := by ring
    _ ≤ s.height.toNat * s.width.toNat := Nat.mul_le_mul_right _ hb

/-! ### The frame of a pass -/

/-- `t` is `s` after writes of words in `R` that were written before: no other byte, and nothing but the frame buffer and the
hidden error term, differs. -/
structure PassFrame (R : Nat → Prop) (s t : State) : Prop where
  rest : t = (s.setMem t.mem).setDthErr t.dthErr
  bytes : ∀ a : Nat, (∀ n, R n → (fbRead s.mem n).isSome = true → a < fbAddr n ∨ fbAddr n + 2 < a) →
    t.mem.read a = s.mem.read a
  written : ∀ n, (fbRead t.mem n).isSome = (fbRead s.mem n).isSome
  wf : s.mem.wf = true → t.mem.wf = true

theorem PassFrame.refl (R : Nat → Prop) (s : State) : PassFrame R s s :=
  ⟨rfl, fun _ _ => rfl, fun _ => rfl, id⟩

theorem PassFrame.trans {R : Nat → Prop} {s t u : State} (h1 : PassFrame R s t) (h2 : PassFrame R t u) :
    PassFrame R s u := by
  refine ⟨?_, fun a ha => ?_, fun n => (h2.written n).trans (h1.written n), fun h => h2.wf (h1.wf h)⟩
  case refine_2 => exact (h2.bytes a (fun n hn hw => ha n hn ((h1.written n) ▸ hw))).trans (h1.bytes a ha)
  rw [h2.rest, h1.rest]
  rfl

theorem PassFrame.mono {R R' : Nat → Prop} (hR : ∀ n, R n → R' n) {s t : State} (h : PassFrame R s t) : PassFrame R' s t :=
  ⟨h.rest, fun a ha => h.bytes a (fun n hn hw => ha n (hR n hn) hw), h.written, h.wf⟩

/-- Every field but the frame buffer and the error term. -/
theorem PassFrame.field {α : Type} {R : Nat → Prop} {s t : State} (h : PassFrame R s t) (f : State → α)
    (hf : ∀ (u : State) m e, f ((u.setMem m).setDthErr e) = f u) : f t = f s := by
  rw [h.rest, hf]

theorem PassFrame.width {R : Nat → Prop} {s t : State} (h : PassFrame R s t) : t.width = s.width :=
  h.field State.width (fun _ _ _ => rfl)

theorem PassFrame.height {R : Nat → Prop} {s t : State} (h : PassFrame R s t) : t.height = s.height :=
  h.field State.height (fun _ _ _ => rfl)

theorem PassFrame.params {R : Nat → Prop} {s t : State} (h : PassFrame R s t) : t.params = s.params :=
  h.field State.params (fun _ _ _ => rfl)

theorem PassFrame.pixelIndex {R : Nat → Prop} {s t : State} (h : PassFrame R s t) (x y : Int) :
    pixelIndex t x y = pixelIndex s x y := by
  unfold Sys2Proof.Machine.pixelIndex
  rw [h.width]

/-- A word outside the written ones reads as before. -/
theorem PassFrame.fbRead_eq {R : Nat → Prop} {s t : State} (h : PassFrame R s t) {n : Nat} (hn : ¬ R n) :
    fbRead t.mem n = fbRead s.mem n := by
  apply fbRead_congr
  intro a h1 h2
  refine h.bytes a (fun k hk _ => ?_)
  have : k ≠ n := fun e => hn (e ▸ hk)
  unfold fbAddr at *
  omega

theorem passFrame_setDthErr (R : Nat → Prop) (s : State) (e : Rgb (BitVec 10)) : PassFrame R s (s.setDthErr e) :=
  ⟨rfl, fun _ _ => rfl, fun _ => rfl, id⟩

theorem readPixel_ok {s : State} {x y : Int} {p : Rgb8} :
    readPixel s x y = .ok p ↔ fbRead s.mem (pixelIndex s x y) = some p := by
  unfold readPixel
  split <;> rename_i h <;> simp [h]

theorem readPixel_error {s : State} {x y : Int} {f : Fault} :
    readPixel s x y = .error f ↔
      fbRead s.mem (pixelIndex s x y) = none ∧ f = .unwrittenFrameBuffer (pixelIndex s x y) := by
  unfold readPixel
  split <;> rename_i h <;> simp [h, eq_comm]

/-- Writing a pixel that was written before. -/
theorem passFrame_writePixel {R : Nat → Prop} {s : State} {x y : Int} (p q : Rgb8) (hR : R (pixelIndex s x y))
    (hw : fbRead s.mem (pixelIndex s x y) = some q) : PassFrame R s (writePixel s x y p) := by
  refine ⟨rfl, fun a ha => ?_, fun n => ?_, fun h => wf_fbWrite _ _ h⟩
  · exact Memory.read_fbWrite_outside _ _ _ (ha _ hR (by rw [hw]; rfl))
  · simp only [writePixel, State.setMem_mem, fbRead_fbWrite]
    split
    · rename_i h; rw [h, hw]; rfl
    · rfl

/-! ### What one pixel of each pass does -/

/-- The naive pixel: it writes its own word, or faults because that word is unwritten. -/
theorem naivePixel_cases (xy : Int × Int) (s : State) :
    (∃ o, fbRead s.mem (pixelIndex s xy.1 xy.2) = some o ∧
      naivePixel xy s = .ok ((writePixel s xy.1 xy.2 (o.zipWith naiveCorrected s.dthErr)).setDthErr
        (o.zipWith naiveError (o.zipWith naiveCorrected s.dthErr)))) ∨
    (fbRead s.mem (pixelIndex s xy.1 xy.2) = none ∧
      naivePixel xy s = .error (.unwrittenFrameBuffer (pixelIndex s xy.1 xy.2))) := by
  unfold naivePixel
  split
  · rename_i f h
    obtain ⟨h1, h2⟩ := readPixel_error.1 h
    exact .inr ⟨h1, by rw [h2]⟩
  · rename_i o h
    exact .inl ⟨o, readPixel_ok.1 h, rfl⟩

theorem naivePixel_frame {R : Nat → Prop} {xy : Int × Int} {s t : State} (hR : R (pixelIndex s xy.1 xy.2))
    (h : naivePixel xy s = .ok t) : PassFrame R s t := by
  rcases naivePixel_cases xy s with ⟨o, ho, he⟩ | ⟨-, he⟩
  · rw [he] at h
    cases h
    exact (passFrame_writePixel _ o hR ho).trans (passFrame_setDthErr _ _ _)
  · rw [he] at h; cases h

/-- One tap: it writes its neighbour, or faults because that word is unwritten. -/
theorem diffuseTap_cases (divisor : Nat) (e : Rgb Int) (xy : Int × Int) (tap : Tap) (s : State) :
    (∃ p, fbRead s.mem (pixelIndex s (xy.1 + tap.dx) (xy.2 + tap.dy)) = some p ∧
      diffuseTap divisor e xy tap s = .ok (writePixel s (xy.1 + tap.dx) (xy.2 + tap.dy)
        (p.zipWith addClamp (e.map (fun c => diffDiv s.params.diffDiv (c * tap.weight) divisor))))) ∨
    (fbRead s.mem (pixelIndex s (xy.1 + tap.dx) (xy.2 + tap.dy)) = none ∧
      diffuseTap divisor e xy tap s = .error (.unwrittenFrameBuffer (pixelIndex s (xy.1 + tap.dx) (xy.2 + tap.dy)))) := by
  unfold diffuseTap
  split
  · rename_i f h
    obtain ⟨h1, h2⟩ := readPixel_error.1 h
    exact .inr ⟨h1, by rw [h2]⟩
  · rename_i p h
    exact .inl ⟨p, readPixel_ok.1 h, rfl⟩

theorem diffuseTap_frame {R : Nat → Prop} {divisor : Nat} {e : Rgb Int} {xy : Int × Int} {tap : Tap} {s t : State}
    (hR : R (pixelIndex s (xy.1 + tap.dx) (xy.2 + tap.dy))) (h : diffuseTap divisor e xy tap s = .ok t) :
    PassFrame R s t := by
  rcases diffuseTap_cases divisor e xy tap s with ⟨p, hp, he⟩ | ⟨-, he⟩
  · rw [he] at h
    cases h
    exact passFrame_writePixel _ p hR hp
  · rw [he] at h; cases h

/-- The words that a kernel reads and writes at one pixel. -/
def KernelWord (kernel : List Tap) (xy : Int × Int) (s : State) (n : Nat) : Prop :=
  n = pixelIndex s xy.1 xy.2 ∨ ∃ tap ∈ kernel, n = pixelIndex s (xy.1 + tap.dx) (xy.2 + tap.dy)

theorem kernelWord_frame {R : Nat → Prop} {kernel : List Tap} {xy : Int × Int} {s t : State} (h : PassFrame R s t) (n : Nat) :
    KernelWord kernel xy t n ↔ KernelWord kernel xy s n := by
  simp only [KernelWord, h.pixelIndex]

theorem kernelPixel_frame {R : Nat → Prop} {kernel : List Tap} {divisor : Nat} {xy : Int × Int} {s t : State}
    (hR : ∀ n, KernelWord kernel xy s n → R n) (h : kernelPixel kernel divisor xy s = .ok t) : PassFrame R s t := by
  unfold kernelPixel at h
  split at h
  · cases h
  · rename_i o ho
    have ho := readPixel_ok.1 ho
    have h0 : PassFrame R s (writePixel s xy.1 xy.2 (o.zipWith addClamp (o.map channelError))) :=
      passFrame_writePixel _ o (hR _ (.inl rfl)) ho
    refine forEach_keeps (P := PassFrame R s) (fun tap htap u v hu hv => hu.trans (diffuseTap_frame ?_ hv)) h0 h
    rw [hu.pixelIndex]
    exact hR _ (.inr ⟨tap, htap, rfl⟩)

/-- A kernel pixel that faults names a word it reads that is unwritten. -/
theorem kernelPixel_error {kernel : List Tap} {divisor : Nat} {xy : Int × Int} {s : State} {f : Fault}
    (h : kernelPixel kernel divisor xy s = .error f) :
    ∃ n, f = .unwrittenFrameBuffer n ∧ KernelWord kernel xy s n ∧ fbRead s.mem n = none := by
  unfold kernelPixel at h
  split at h
  · rename_i g hg
    cases h
    obtain ⟨h1, rfl⟩ := readPixel_error.1 hg
    exact ⟨_, rfl, .inl rfl, h1⟩
  · rename_i o ho
    have ho := readPixel_ok.1 ho
    have h0 : PassFrame (KernelWord kernel xy s) s (writePixel s xy.1 xy.2 (o.zipWith addClamp (o.map channelError))) :=
      passFrame_writePixel _ o (.inl rfl) ho
    obtain ⟨tap, htap, u, hu, hf⟩ := forEach_error (P := PassFrame (KernelWord kernel xy s) s)
      (fun tap htap u v hu hv => hu.trans (diffuseTap_frame (by rw [hu.pixelIndex]; exact .inr ⟨tap, htap, rfl⟩) hv)) h0 h
    rcases diffuseTap_cases divisor (o.map channelError) xy tap u with ⟨p, -, he⟩ | ⟨hn, he⟩
    · rw [he] at hf; cases hf
    · rw [he] at hf
      cases hf
      refine ⟨_, rfl, ?_, ?_⟩
      · rw [hu.pixelIndex]; exact .inr ⟨tap, htap, rfl⟩
      · have := hu.written (pixelIndex u (xy.1 + tap.dx) (xy.2 + tap.dy))
        rw [hn] at this
        exact Option.isNone_iff_eq_none.1 (by simpa using this.symm)

/-- A kernel pixel completes when every word it reads is written. -/
theorem kernelPixel_ok {kernel : List Tap} {divisor : Nat} {xy : Int × Int} {s : State}
    (h : ∀ n, KernelWord kernel xy s n → (fbRead s.mem n).isSome = true) :
    ∃ t, kernelPixel kernel divisor xy s = .ok t := by
  cases hk : kernelPixel kernel divisor xy s with
  | ok t => exact ⟨t, rfl⟩
  | error f =>
    obtain ⟨n, -, hn, hnone⟩ := kernelPixel_error hk
    have := h n hn
    rw [hnone] at this
    cases this

/-! ### Whole passes over a list of pixels -/

/-- The words that a kernel pass over the pixels `pts` reads and writes. -/
def PassWord (kernel : List Tap) (pts : List (Int × Int)) (s : State) (n : Nat) : Prop :=
  ∃ xy ∈ pts, KernelWord kernel xy s n

theorem kernelPass_frame {kernel : List Tap} {divisor : Nat} {pts : List (Int × Int)} {s t : State}
    (h : forEach (kernelPixel kernel divisor) pts s = .ok t) : PassFrame (PassWord kernel pts s) s t :=
  forEach_keeps (P := PassFrame (PassWord kernel pts s) s)
    (fun xy hxy _ _ hu hv => hu.trans (kernelPixel_frame (fun n hn => ⟨xy, hxy, (kernelWord_frame hu n).1 hn⟩) hv))
    (PassFrame.refl _ _) h

/-- A kernel pass faults exactly when a word it reads is unwritten (70_reset_and_hazards.md R288). -/
theorem kernelPass_error {kernel : List Tap} {divisor : Nat} {pts : List (Int × Int)} {s : State} {f : Fault}
    (h : forEach (kernelPixel kernel divisor) pts s = .error f) :
    ∃ n, f = .unwrittenFrameBuffer n ∧ PassWord kernel pts s n ∧ fbRead s.mem n = none := by
  obtain ⟨xy, hxy, u, hu, hf⟩ := forEach_error (P := PassFrame (PassWord kernel pts s) s)
    (fun xy hxy u v hu hv => hu.trans (kernelPixel_frame (fun n hn => ⟨xy, hxy, (kernelWord_frame hu n).1 hn⟩) hv))
    (PassFrame.refl _ _) h
  obtain ⟨n, rfl, hn, hnone⟩ := kernelPixel_error hf
  refine ⟨n, rfl, ⟨xy, hxy, (kernelWord_frame hu n).1 hn⟩, ?_⟩
  have := hu.written n
  rw [hnone] at this
  exact Option.isNone_iff_eq_none.1 (by simpa using this.symm)

theorem kernelPass_ok {kernel : List Tap} {divisor : Nat} {pts : List (Int × Int)} {s : State}
    (h : ∀ n, PassWord kernel pts s n → (fbRead s.mem n).isSome = true) :
    ∃ t, forEach (kernelPixel kernel divisor) pts s = .ok t := by
  cases hk : forEach (kernelPixel kernel divisor) pts s with
  | ok t => exact ⟨t, rfl⟩
  | error f =>
    obtain ⟨n, -, hn, hnone⟩ := kernelPass_error hk
    have := h n hn
    rw [hnone] at this
    cases this

/-- The words that the naive pass over the pixels `pts` reads and writes. -/
def NaiveWord (pts : List (Int × Int)) (s : State) (n : Nat) : Prop :=
  ∃ xy ∈ pts, n = pixelIndex s xy.1 xy.2

theorem naiveLoop_frame {pts : List (Int × Int)} {s t : State} (h : forEach naivePixel pts s = .ok t) :
    PassFrame (NaiveWord pts s) s t :=
  forEach_keeps (P := PassFrame (NaiveWord pts s) s)
    (fun xy hxy _ _ hu hv => hu.trans (naivePixel_frame ⟨xy, hxy, hu.pixelIndex _ _⟩ hv))
    (PassFrame.refl _ _) h

theorem naiveLoop_error {pts : List (Int × Int)} {s : State} {f : Fault} (h : forEach naivePixel pts s = .error f) :
    ∃ n, f = .unwrittenFrameBuffer n ∧ NaiveWord pts s n ∧ fbRead s.mem n = none := by
  obtain ⟨xy, hxy, u, hu, hf⟩ := forEach_error (P := PassFrame (NaiveWord pts s) s)
    (fun xy hxy u v hu hv => hu.trans (naivePixel_frame ⟨xy, hxy, hu.pixelIndex _ _⟩ hv))
    (PassFrame.refl _ _) h
  rcases naivePixel_cases xy u with ⟨o, -, he⟩ | ⟨hn, he⟩
  · rw [he] at hf; cases hf
  · rw [he] at hf
    cases hf
    refine ⟨_, rfl, ⟨xy, hxy, hu.pixelIndex _ _⟩, ?_⟩
    have := hu.written (pixelIndex u xy.1 xy.2)
    rw [hn] at this
    exact Option.isNone_iff_eq_none.1 (by simpa using this.symm)

/-! ### Commands -/

/-- All that a dither command can do. -/
theorem ditherCommand_cases (pass : State → Except Fault State) (s : State) :
    (s.params.fbPixels < frameSize s ∧ ditherCommand pass s = .next (raiseError .cmdErr s)) ∨
    (frameSize s ≤ s.params.fbPixels ∧ ∃ t, pass s = .ok t ∧ ditherCommand pass s = .next t) ∨
    (frameSize s ≤ s.params.fbPixels ∧ ∃ f, pass s = .error f ∧ ditherCommand pass s = .fault f) := by
  unfold ditherCommand
  split
  · rename_i h; exact .inl ⟨h, rfl⟩
  · rename_i h
    cases hp : pass s with
    | ok t => exact .inr (.inl ⟨by omega, t, rfl, rfl⟩)
    | error f => exact .inr (.inr ⟨by omega, f, rfl, rfl⟩)

end Sys2Proof.Machine
end

