-- ==== Sys2Proof/Laws/Encoding.lean ====
section
/-! SUPPORT. The numbers that offsets and fields stand for, and what decoding an offset gives. -/

namespace Sys2Proof

theorem registerOffset_toNat (k : BitVec 4) : (registerOffset k).toNat = 4 * k.toNat := by
  have h : ∀ k : BitVec 4, (registerOffset k).toNat = 4 * k.toNat := by decide
  exact h k

theorem palOffset_toNat (i : BitVec 4) : (palOffset i).toNat = 0x40 + 4 * i.toNat := by
  have h : ∀ i : BitVec 4, (palOffset i).toNat = 0x40 + 4 * i.toNat := by decide
  exact h i

theorem spaceOffset_toNat (k : BitVec 20) : (spaceOffset k).toNat = 4 * k.toNat := by
  rw [spaceOffset, BitVec.toNat_append, BitVec.toNat_append]
  simp [Nat.shiftLeft_eq]
  omega

theorem fbOffset_toNat (n : BitVec 20) : (fbOffset n).toNat = 0x400000 + 4 * n.toNat := by
  have hn := n.isLt
  have h : (n ++ 0#2).toNat = 4 * n.toNat := by
    simp only [BitVec.toNat_append, BitVec.toNat_ofNat, Nat.or_zero, Nat.zero_mod, Nat.shiftLeft_eq]
    omega
  have h2 : (n ++ 0#2).toNat < 2 ^ 22 := (n ++ 0#2).isLt
  rw [fbOffset, BitVec.toNat_append, ← Nat.shiftLeft_add_eq_or_of_lt h2, h, Nat.shiftLeft_eq]
  simp

/-- The field of `len` bits from bit `lo`, as a number. -/
theorem extract_eq_iff {w len : Nat} (lo : Nat) (x : BitVec w) (y : BitVec len) :
    x.extractLsb' lo len = y ↔ x.toNat / 2 ^ lo % 2 ^ len = y.toNat := by
  rw [← BitVec.toNat_inj, BitVec.extractLsb'_toNat, Nat.shiftRight_eq_div_pow]

/-- An access is rejected for its width, else for its alignment (20_memory.md R62). -/
theorem accessReject_eq_none (off : BitVec 23) (size : Nat) :
    accessReject off size = none ↔ size = 4 ∧ off.toNat % 4 = 0 := by
  have h : off.extractLsb' 0 2 = 0 ↔ off.toNat % 4 = 0 := by
    rw [extract_eq_iff]
    simp
  unfold accessReject
  by_cases h4 : size = 4
  · by_cases h0 : off.toNat % 4 = 0
    · simp [h4, h0, h.2 h0]
    · have hx := mt h.1 h0
      simp only [h4, h0, ne_eq, not_true_eq_false, if_false, hx, not_false_eq_true, if_true, and_false, reduceCtorEq]
  · simp [h4]

theorem decode_read_of_aligned {off : BitVec 23} (h : off.toNat % 4 = 0) :
    decode (.mmio (.read off 4)) = .ok (decodeRead off) := by
  simp [decode, decodeAccess, (accessReject_eq_none off 4).2 ⟨rfl, h⟩]

theorem decode_write_of_aligned {off : BitVec 23} (v : Word) (h : off.toNat % 4 = 0) :
    decode (.mmio (.write off 4 v)) = .ok (decodeWrite off v) := by
  simp [decode, decodeAccess, (accessReject_eq_none off 4).2 ⟨rfl, h⟩]

theorem decode_readCode {off : BitVec 23} (h : off.toNat % 4 = 0) : decode (readCode off) = .ok (decodeRead off) :=
  decode_read_of_aligned h

theorem decode_writeCode {off : BitVec 23} (v : Word) (h : off.toNat % 4 = 0) :
    decode (writeCode off v) = .ok (decodeWrite off v) :=
  decode_write_of_aligned v h

/-! ### What each offset decodes to -/

theorem decodeRead_register (k : BitVec 4) : decodeRead (registerOffset k) = registerRead k := by
  have hk := k.isLt
  have h := registerOffset_toNat k
  have hx : (registerOffset k).extractLsb' 2 4 = k := by rw [extract_eq_iff, h]; omega
  simp [decodeRead, h, hx, show ¬ 4194304 ≤ 4 * k.toNat by omega, show 4 * k.toNat < 64 by omega]

theorem decodeWrite_register (k : BitVec 4) (v : Word) : decodeWrite (registerOffset k) v = registerWrite k v := by
  have hk := k.isLt
  have h := registerOffset_toNat k
  have hx : (registerOffset k).extractLsb' 2 4 = k := by rw [extract_eq_iff, h]; omega
  simp [decodeWrite, h, hx, show ¬ 4194304 ≤ 4 * k.toNat by omega, show 4 * k.toNat < 64 by omega]

theorem decodeRead_pal (i : BitVec 4) : decodeRead (palOffset i) = .palR i := by
  have hi := i.isLt
  have h := palOffset_toNat i
  have hx : (palOffset i).extractLsb' 2 4 = i := by rw [extract_eq_iff, h]; omega
  simp [decodeRead, h, hx, show ¬ 4194304 ≤ 64 + 4 * i.toNat by omega, show ¬ 64 + 4 * i.toNat < 64 by omega,
    show 64 + 4 * i.toNat < 128 by omega]

theorem decodeWrite_pal (i : BitVec 4) (v : Word) : decodeWrite (palOffset i) v = .palW i v := by
  have hi := i.isLt
  have h := palOffset_toNat i
  have hx : (palOffset i).extractLsb' 2 4 = i := by rw [extract_eq_iff, h]; omega
  simp [decodeWrite, h, hx, show ¬ 4194304 ≤ 64 + 4 * i.toNat by omega, show ¬ 64 + 4 * i.toNat < 64 by omega,
    show 64 + 4 * i.toNat < 128 by omega]

theorem decodeRead_fb (n : BitVec 20) : decodeRead (fbOffset n) = .fbR n := by
  have hn := n.isLt
  have h := fbOffset_toNat n
  have hx : (fbOffset n).extractLsb' 2 20 = n := by rw [extract_eq_iff, h]; omega
  simp [decodeRead, h, hx, show 4194304 ≤ 4194304 + 4 * n.toNat by omega]

theorem decodeWrite_fb (n : BitVec 20) (v : Word) : decodeWrite (fbOffset n) v = .fbW n v := by
  have hn := n.isLt
  have h := fbOffset_toNat n
  have hx : (fbOffset n).extractLsb' 2 20 = n := by rw [extract_eq_iff, h]; omega
  simp [decodeWrite, h, hx, show 4194304 ≤ 4194304 + 4 * n.toNat by omega]

theorem decodeRead_space {k : BitVec 20} (hk : 0x20 ≤ k.toNat) : decodeRead (spaceOffset k) = .reservedR k := by
  have hlt := k.isLt
  have h := spaceOffset_toNat k
  have hx : (spaceOffset k).extractLsb' 2 20 = k := by rw [extract_eq_iff, h]; omega
  simp [decodeRead, h, hx, show ¬ 4194304 ≤ 4 * k.toNat by omega, show ¬ 4 * k.toNat < 64 by omega,
    show ¬ 4 * k.toNat < 128 by omega]

theorem decodeWrite_space {k : BitVec 20} (v : Word) (hk : 0x20 ≤ k.toNat) :
    decodeWrite (spaceOffset k) v = .reservedW k v := by
  have hlt := k.isLt
  have h := spaceOffset_toNat k
  have hx : (spaceOffset k).extractLsb' 2 20 = k := by rw [extract_eq_iff, h]; omega
  simp [decodeWrite, h, hx, show ¬ 4194304 ≤ 4 * k.toNat by omega, show ¬ 4 * k.toNat < 64 by omega,
    show ¬ 4 * k.toNat < 128 by omega]

/-! ### Round trips of the parts -/

theorem decodeHam6_encode6 (op : Op) (p : BitVec 4) : decodeHam6 (encode6 op p) = ham6Instr op p := by
  have h : ∀ p : BitVec 4, decodeHam6 (encode6 .usePalette p) = ham6Instr .usePalette p ∧
      decodeHam6 (encode6 .modifyRed p) = ham6Instr .modifyRed p ∧
      decodeHam6 (encode6 .modifyGreen p) = ham6Instr .modifyGreen p ∧
      decodeHam6 (encode6 .modifyBlue p) = ham6Instr .modifyBlue p := by decide
  cases op
  · exact (h p).1
  · exact (h p).2.1
  · exact (h p).2.2.1
  · exact (h p).2.2.2

theorem decodeCmd_cmdData (c : BitVec 4) : decodeCmd (cmdData c) = decodeCode c := by
  have h : ∀ c : BitVec 4, decodeCmd (cmdData c) = decodeCode c := by decide
  exact h c

theorem decode_register_read (k : BitVec 4) : decode (readCode (registerOffset k)) = .ok (registerRead k) := by
  rw [decode_readCode (by rw [registerOffset_toNat]; omega), decodeRead_register]

theorem decode_register_write (k : BitVec 4) (v : Word) :
    decode (writeCode (registerOffset k) v) = .ok (registerWrite k v) := by
  rw [decode_writeCode v (by rw [registerOffset_toNat]; omega), decodeWrite_register]

theorem decode_pal_read (i : BitVec 4) : decode (readCode (palOffset i)) = .ok (.palR i) := by
  rw [decode_readCode (by rw [palOffset_toNat]; omega), decodeRead_pal]

theorem decode_pal_write (i : BitVec 4) (v : Word) : decode (writeCode (palOffset i) v) = .ok (.palW i v) := by
  rw [decode_writeCode v (by rw [palOffset_toNat]; omega), decodeWrite_pal]

theorem decode_fb_read (n : BitVec 20) : decode (readCode (fbOffset n)) = .ok (.fbR n) := by
  rw [decode_readCode (by rw [fbOffset_toNat]; omega), decodeRead_fb]

theorem decode_fb_write (n : BitVec 20) (v : Word) : decode (writeCode (fbOffset n) v) = .ok (.fbW n v) := by
  rw [decode_writeCode v (by rw [fbOffset_toNat]; omega), decodeWrite_fb]

theorem decode_space_read {k : BitVec 20} (hk : 0x20 ≤ k.toNat) :
    decode (readCode (spaceOffset k)) = .ok (.reservedR k) := by
  rw [decode_readCode (by rw [spaceOffset_toNat]; omega), decodeRead_space hk]

theorem decode_space_write {k : BitVec 20} (v : Word) (hk : 0x20 ≤ k.toNat) :
    decode (writeCode (spaceOffset k) v) = .ok (.reservedW k v) := by
  rw [decode_writeCode v (by rw [spaceOffset_toNat]; omega), decodeWrite_space v hk]

/-! ### The data of a `CMD` write -/

theorem cmdCode_toNat (v : Word) : (cmdCode v).toNat = v.toNat % 16 := by
  simp [cmdCode, BitVec.extractLsb'_toNat]

end Sys2Proof
end

