-- ==== Sys2Proof/Laws/Exec.lean ====
section
/-! SUPPORT. All that one instruction can do when it completes, said once: every claim about a whole class of instructions is a
case analysis over `Effect`. -/

namespace Sys2Proof.Machine

open Sys2Proof.Safety

/-- A `CMD` write is the command that its data selects (30_encoding.md R95). -/
theorem exec_cmdW (v : Word) (s : State) : exec (.cmdW v) s = exec (decodeCmd v) s := by
  have h : ∀ k : BitVec 4, (match k with
      | 0x0#4 => execNop s
      | 0x1#4 => execEncReset s
      | 0x2#4 => execDecReset s
      | 0x3#4 => execDecCheck s
      | 0x4#4 => execDitherNaive s
      | 0x5#4 => execDitherFs s
      | 0x6#4 => execDitherJjn s
      | 0x7#4 => execCmdReserved7 s
      | c => execCmdReserved8F c s) = exec (decodeCode k) s := by
    intro k
    have hk : ∀ k : BitVec 4, k = 0 ∨ k = 1 ∨ k = 2 ∨ k = 3 ∨ k = 4 ∨ k = 5 ∨ k = 6 ∨ k = 7 ∨ k = 8 ∨ k = 9 ∨ k = 10 ∨
        k = 11 ∨ k = 12 ∨ k = 13 ∨ k = 14 ∨ k = 15 := by decide
    rcases hk k with h|h|h|h|h|h|h|h|h|h|h|h|h|h|h|h <;> subst h <;> rfl
  exact h (cmdCode v)

/-- What a `CMD` code selects, by its number (30_encoding.md R95). -/
theorem decodeCmd_cases (v : Word) :
    (v.toNat % 16 = 0 ∧ decodeCmd v = .nop) ∨ (v.toNat % 16 = 1 ∧ decodeCmd v = .encReset) ∨
    (v.toNat % 16 = 2 ∧ decodeCmd v = .decReset) ∨ (v.toNat % 16 = 3 ∧ decodeCmd v = .decCheck) ∨
    (v.toNat % 16 = 4 ∧ decodeCmd v = .ditherNaive) ∨ (v.toNat % 16 = 5 ∧ decodeCmd v = .ditherFs) ∨
    (v.toNat % 16 = 6 ∧ decodeCmd v = .ditherJjn) ∨ (v.toNat % 16 = 7 ∧ decodeCmd v = .cmdReserved7) ∨
    (8 ≤ v.toNat % 16 ∧ decodeCmd v = .cmdReserved8F (cmdCode v)) := by
  rw [← cmdCode_toNat]
  unfold decodeCmd
  generalize cmdCode v = k
  revert k
  decide

/-- The instructions that are a decoder step. -/
def isDecoderStep : Instr → Bool
  | .usepal _ | .modr _ | .modg _ | .modb _ | .decInW _ => true
  | _ => false

/-- `t` is what instruction `i` can leave when it completes from `s`; a `CMD` write is the command it selects. -/
inductive Effect (s : State) : Instr → State → Prop
  | same (i : Instr) : Effect s i s
  | read (i : Instr) (v : Word) (h : isHostRead i = true) : Effect s i (s.setReadData v)
  | ctrl (v : Word) (b : Bool) : Effect s (.ctrlW v) (s.setFfc b)
  | status (v : Word) : Effect s (.statusW1C v) (s.setStatus (statusClear v s.status))
  | width (v : Word) (w : BitVec 16) : Effect s (.widthW v) (s.setWidth w)
  | height (v : Word) (w : BitVec 16) : Effect s (.heightW v) (s.setHeight w)
  | palette (i : BitVec 4) (v : Word) (c : Color12) : Effect s (.palW i v) (s.setPal (palSet s.pal i c))
  | lookup (v : Word) (c : Color12) :
      Effect s (.lookupW v) (s.setLookupOut (packLookupOut (nearest s.pal c).2 (nearest s.pal c).1))
  | frameBuffer (n : BitVec 20) (v : Word) (p : Rgb8) (h : n.toNat < s.params.fbPixels) :
      Effect s (.fbW n v) (s.setMem (fbWrite s.mem n.toNat p))
  | encode (v : Word) (c : Color12) (h : s.encCount.toNat < frameSize s) :
      Effect s (.encInW v) (encodeUpdate (chooseCandidate s c) s)
  | encOvf (v : Word) : Effect s (.encInW v) (raiseError .encOvf s)
  | encReset : Effect s .encReset (s.setEnc ⟨0, 0, 0⟩ 0)
  | decode (i : Instr) (c : Color12) (hi : isDecoderStep i = true) (h : s.decCount.toNat < frameSize s) :
      Effect s i (decodeUpdate c s)
  | decOvf (i : Instr) (hi : isDecoderStep i = true) : Effect s i (raiseError .decOvf s)
  | decReset : Effect s .decReset (s.setDec ⟨0, 0, 0⟩ 0)
  | decLen : Effect s .decCheck (raiseError .decLen s)
  | reserved7 : Effect s .cmdReserved7 (raiseError .cmdErr s)
  | reserved8F (c : BitVec 4) : Effect s (.cmdReserved8F c) (raiseError .cmdErr s)
  | ditherErr (i : Instr) (hi : isDither i = true) : Effect s i (raiseError .cmdErr s)
  | dither (i : Instr) (m : Memory) (e : Rgb (BitVec 10)) (hi : isDither i = true) (hfit : frameSize s ≤ s.params.fbPixels)
      (hf : PassFrame (fun n => n < frameSize s) s ((s.setMem m).setDthErr e))
      (he : e = s.dthErr ∨ (i = .ditherNaive ∧ e = ⟨0, 0, 0⟩)) :
      Effect s i ((s.setMem m).setDthErr e)
  | command (v : Word) (t : State) (h : Effect s (decodeCmd v) t) : Effect s (.cmdW v) t

/-- The words of a rectangle inside the raster are words of the raster (44_dither.md R229). -/
theorem passWord_lt {kernel : List Tap} {x0 x1 y0 y1 : Int} {s : State}
    (h : ∀ x y, (x0 ≤ x ∧ x ≤ x1) → (y0 ≤ y ∧ y ≤ y1) →
      ((0 ≤ x ∧ x < s.width.toNat) ∧ (0 ≤ y ∧ y < s.height.toNat)) ∧
      ∀ tap ∈ kernel, (0 ≤ x + tap.dx ∧ x + tap.dx < s.width.toNat) ∧ (0 ≤ y + tap.dy ∧ y + tap.dy < s.height.toNat))
    {n : Nat} (hn : PassWord kernel (raster x0 x1 y0 y1) s n) : n < frameSize s := by
  obtain ⟨⟨x, y⟩, hxy, hw⟩ := hn
  obtain ⟨hx, hy⟩ := mem_raster.1 hxy
  obtain ⟨h1, h2⟩ := h x y hx hy
  rcases hw with rfl | ⟨tap, ht, rfl⟩
  · exact pixelIndex_lt h1.1 h1.2
  · exact pixelIndex_lt (h2 tap ht).1 (h2 tap ht).2

/-- Every word of a Floyd-Steinberg pass lies in the raster (44_dither.md R229). -/
theorem fsWord_lt {s : State} {n : Nat}
    (hn : PassWord kernelFs (raster 1 ((s.width.toNat : Int) - 3) 1 ((s.height.toNat : Int) - 3)) s n) : n < frameSize s := by
  refine passWord_lt (fun x y hx hy => ⟨by omega, fun tap ht => ?_⟩) hn
  simp only [kernelFs, List.mem_cons, List.not_mem_nil, or_false] at ht
  rcases ht with rfl | rfl | rfl | rfl <;> dsimp only <;> omega

/-- Every word of a Jarvis-Judice-Ninke pass lies in the raster (44_dither.md R229). -/
theorem jjnWord_lt {s : State} {n : Nat}
    (hn : PassWord kernelJjn (raster 3 ((s.width.toNat : Int) - 4) 0 ((s.height.toNat : Int) - 4)) s n) :
    n < frameSize s := by
  refine passWord_lt (fun x y hx hy => ⟨by omega, fun tap ht => ?_⟩) hn
  simp only [kernelJjn, List.mem_cons, List.not_mem_nil, or_false] at ht
  rcases ht with rfl | rfl | rfl | rfl | rfl | rfl | rfl | rfl | rfl | rfl | rfl | rfl <;> dsimp only <;> omega

/-- Every word of a naive pass lies in the raster (44_dither.md R220). -/
theorem naiveWord_lt {s : State} {n : Nat}
    (hn : NaiveWord (raster 0 ((s.width.toNat : Int) - 1) 0 ((s.height.toNat : Int) - 1)) s n) : n < frameSize s := by
  obtain ⟨⟨x, y⟩, hxy, rfl⟩ := hn
  obtain ⟨hx, hy⟩ := mem_raster.1 hxy
  exact pixelIndex_lt (by omega) (by omega)

/-- The naive pass writes words of the raster and leaves the error term 0 (44_dither.md R223, R229; log 10). -/
theorem naivePass_frame {s t : State} (h : naivePass s = .ok t) :
    PassFrame (fun n => n < frameSize s) s t ∧ t.dthErr = ⟨0, 0, 0⟩ := by
  unfold naivePass at h
  split at h
  · rename_i u hu
    cases h
    refine ⟨?_, rfl⟩
    refine ((passFrame_setDthErr _ s _).trans ((naiveLoop_frame hu).mono (fun n hn => ?_))).trans (passFrame_setDthErr _ _ _)
    exact naiveWord_lt hn
  · cases h

/-- The Floyd-Steinberg pass writes words of the raster and no other field (44_dither.md R229). -/
theorem fsPass_frame {s t : State} (h : fsPass s = .ok t) : PassFrame (fun n => n < frameSize s) s t :=
  (kernelPass_frame h).mono (fun _ hn => fsWord_lt hn)

/-- The Jarvis-Judice-Ninke pass writes words of the raster and no other field (44_dither.md R229). -/
theorem jjnPass_frame {s t : State} (h : jjnPass s = .ok t) : PassFrame (fun n => n < frameSize s) s t :=
  (kernelPass_frame h).mono (fun _ hn => jjnWord_lt hn)

/-- A kernel pass leaves the error term (44_dither.md R225; 10_state.md R40). -/
theorem kernelPass_dthErr {kernel : List Tap} {divisor : Nat} {pts : List (Int × Int)} {s t : State}
    (h : forEach (kernelPixel kernel divisor) pts s = .ok t) : t.dthErr = s.dthErr := by
  have htap : ∀ e xy (taps : List Tap) (u v : State), forEach (diffuseTap divisor e xy) taps u = .ok v → v.dthErr = u.dthErr := by
    intro e xy taps u v huv
    refine forEach_keeps (P := fun w => w.dthErr = u.dthErr) (fun tap _ a b ha hb => ?_) rfl huv
    rcases diffuseTap_cases divisor e xy tap a with ⟨p, -, he⟩ | ⟨-, he⟩ <;> rw [he] at hb <;> cases hb
    exact ha
  refine forEach_keeps (P := fun u => u.dthErr = s.dthErr) (fun xy _ u v hu hv => ?_) rfl h
  unfold kernelPixel at hv
  split at hv
  · cases hv
  · exact (htap _ _ _ _ _ hv).trans hu

/-- What a dither command leaves when it completes. -/
theorem effect_dither {pass : State → Except Fault State} {i : Instr} {s t : State} (hi : isDither i = true)
    (hp : ∀ u, pass s = .ok u → PassFrame (fun n => n < frameSize s) s u ∧
      (u.dthErr = s.dthErr ∨ (i = .ditherNaive ∧ u.dthErr = ⟨0, 0, 0⟩)))
    (h : ditherCommand pass s = .next t) : Effect s i t := by
  rcases ditherCommand_cases pass s with ⟨-, e⟩ | ⟨hfit, u, hu, e⟩ | ⟨-, f, -, e⟩ <;> rw [e] at h <;> cases h
  · exact .ditherErr _ hi
  · obtain ⟨h1, h2⟩ := hp _ hu
    have h3 := h1
    rw [h1.rest] at h3 ⊢
    exact .dither _ _ _ hi hfit h3 h2

/-- All that an instruction other than a `CMD` write can do. -/
theorem exec_effect_of_ne {i : Instr} {s t : State} (hi : ∀ v, i ≠ .cmdW v) (h : exec i s = .next t) : Effect s i t := by
  have hstep : ∀ j c, isDecoderStep j = true → t = decodeStep c s → Effect s j t := by
    intro j c hj ht
    rcases decodeStep_cases c s with ⟨-, e⟩ | ⟨hlt, e⟩ <;> rw [ht, e]
    · exact .decOvf _ hj
    · exact .decode _ _ hj hlt
  cases i
  case cmdW v => exact absurd rfl (hi v)
  case usepal n => cases h; exact hstep _ _ rfl rfl
  case modr n => cases h; exact hstep _ _ rfl rfl
  case modg n => cases h; exact hstep _ _ rfl rfl
  case modb n => cases h; exact hstep _ _ rfl rfl
  case decInW v =>
    obtain ⟨c, e⟩ := execDecInW_step v s
    simp only [exec] at h
    rw [e] at h
    cases h
    exact hstep _ _ rfl rfl
  case ditherNaive => exact effect_dither rfl (fun u hu => ⟨(naivePass_frame hu).1, .inr ⟨rfl, (naivePass_frame hu).2⟩⟩) h
  case ditherFs => exact effect_dither rfl (fun u hu => ⟨fsPass_frame hu, .inl (kernelPass_dthErr hu)⟩) h
  case ditherJjn => exact effect_dither rfl (fun u hu => ⟨jjnPass_frame hu, .inl (kernelPass_dthErr hu)⟩) h
  case encInW v =>
    simp only [exec] at h
    rcases execEncInW_cases v s with ⟨-, e⟩ | ⟨hlt, e⟩ <;> rw [e] at h <;> cases h
    · exact .encOvf _
    · exact .encode _ _ hlt
  case decCheck =>
    simp only [exec, execDecCheck] at h
    split at h <;> cases h
    · exact .decLen
    · exact .same _
  case fbW n v =>
    simp only [exec, execFbW] at h
    split at h <;> cases h
    · exact .frameBuffer _ _ _ (by assumption)
    · exact .same _
  case fbR n =>
    simp only [exec, execFbR] at h
    split at h
    · split at h <;> cases h
      exact .read _ _ rfl
    · cases h
      exact .read _ _ rfl
  case nop => cases h; exact .same _
  case encReset => cases h; exact .encReset
  case decReset => cases h; exact .decReset
  case cmdReserved7 => cases h; exact .reserved7
  case cmdReserved8F c => cases h; exact .reserved8F c
  case ctrlW v => cases h; exact .ctrl _ _
  case statusW1C v => cases h; exact .status _
  case widthW v => cases h; exact .width _ _
  case heightW v => cases h; exact .height _ _
  case palW i v => cases h; exact .palette _ _ _
  case lookupW v => cases h; exact .lookup _ _
  case encOutW v => cases h; exact .same _
  case encPrevW v => cases h; exact .same _
  case encCountW v => cases h; exact .same _
  case decOutW v => cases h; exact .same _
  case decPrevW v => cases h; exact .same _
  case decCountW v => cases h; exact .same _
  case lookupOutW v => cases h; exact .same _
  case fbSizeW v => cases h; exact .same _
  case reservedW k v => cases h; exact .same _
  all_goals (cases h; exact .read _ _ rfl)

/-- All that an instruction can do. -/
theorem exec_effect {i : Instr} {s t : State} (h : exec i s = .next t) : Effect s i t := by
  by_cases hi : ∀ v, i ≠ .cmdW v
  · exact exec_effect_of_ne hi h
  · push Not at hi
    obtain ⟨v, rfl⟩ := hi
    rw [exec_cmdW] at h
    refine .command _ _ (exec_effect_of_ne (fun w hw => ?_) h)
    rcases decodeCmd_cases v with ⟨-, e⟩ | ⟨-, e⟩ | ⟨-, e⟩ | ⟨-, e⟩ | ⟨-, e⟩ | ⟨-, e⟩ | ⟨-, e⟩ | ⟨-, e⟩ | ⟨-, e⟩ <;>
      rw [e] at hw <;> cases hw

end Sys2Proof.Machine
end

