-- ==== Sys2Proof/Laws/PerInstr.lean ====
section
/-! SUPPORT. Statements made of every instruction, one lemma a constructor. `RoundTrip`: decoding what the encoder gives for a
well-formed instruction is that instruction. -/

namespace Sys2Proof.Laws.RoundTrip

/-- The instruction comes back from its own code. -/
def Statement (i : Instr) : Prop := i.wellFormed = true → decode (encode i) = .ok i

theorem usepal (n : BitVec 4) : Statement (.usepal n) :=
  fun _ => congrArg Except.ok (decodeHam6_encode6 .usePalette n)
theorem modr (n : BitVec 4) : Statement (.modr n) :=
  fun _ => congrArg Except.ok (decodeHam6_encode6 .modifyRed n)
theorem modg (n : BitVec 4) : Statement (.modg n) :=
  fun _ => congrArg Except.ok (decodeHam6_encode6 .modifyGreen n)
theorem modb (n : BitVec 4) : Statement (.modb n) :=
  fun _ => congrArg Except.ok (decodeHam6_encode6 .modifyBlue n)
theorem nop : Statement .nop :=
  fun _ => congrArg Except.ok (decodeCmd_cmdData _)
theorem encReset : Statement .encReset :=
  fun _ => congrArg Except.ok (decodeCmd_cmdData _)
theorem decReset : Statement .decReset :=
  fun _ => congrArg Except.ok (decodeCmd_cmdData _)
theorem decCheck : Statement .decCheck :=
  fun _ => congrArg Except.ok (decodeCmd_cmdData _)
theorem ditherNaive : Statement .ditherNaive :=
  fun _ => congrArg Except.ok (decodeCmd_cmdData _)
theorem ditherFs : Statement .ditherFs :=
  fun _ => congrArg Except.ok (decodeCmd_cmdData _)
theorem ditherJjn : Statement .ditherJjn :=
  fun _ => congrArg Except.ok (decodeCmd_cmdData _)
theorem cmdReserved7 : Statement .cmdReserved7 :=
  fun _ => congrArg Except.ok (decodeCmd_cmdData _)
theorem cmdReserved8F (code : BitVec 4) : Statement (.cmdReserved8F code) := by
  have h : ∀ c : BitVec 4, 8 ≤ c.toNat → decodeCode c = .cmdReserved8F c := by decide
  intro hw
  exact congrArg Except.ok ((decodeCmd_cmdData code).trans (h code (of_decide_eq_true hw)))
theorem ctrlW (v : Word) : Statement (.ctrlW v) :=
  fun _ => decode_register_write 0x0 v
theorem ctrlR : Statement .ctrlR :=
  fun _ => decode_register_read 0x0
theorem cmdW (v : Word) : Statement (.cmdW v) :=
  fun _ => decode_register_write 0x1 v
theorem statusR : Statement .statusR :=
  fun _ => decode_register_read 0x2
theorem statusW1C (v : Word) : Statement (.statusW1C v) :=
  fun _ => decode_register_write 0x2 v
theorem widthW (v : Word) : Statement (.widthW v) :=
  fun _ => decode_register_write 0x3 v
theorem widthR : Statement .widthR :=
  fun _ => decode_register_read 0x3
theorem heightW (v : Word) : Statement (.heightW v) :=
  fun _ => decode_register_write 0x4 v
theorem heightR : Statement .heightR :=
  fun _ => decode_register_read 0x4
theorem encInW (v : Word) : Statement (.encInW v) :=
  fun _ => decode_register_write 0x5 v
theorem encOutR : Statement .encOutR :=
  fun _ => decode_register_read 0x6
theorem encPrevR : Statement .encPrevR :=
  fun _ => decode_register_read 0x7
theorem encCountR : Statement .encCountR :=
  fun _ => decode_register_read 0x8
theorem decInW (v : Word) : Statement (.decInW v) :=
  fun _ => decode_register_write 0x9 v
theorem decOutR : Statement .decOutR :=
  fun _ => decode_register_read 0xA
theorem decPrevR : Statement .decPrevR :=
  fun _ => decode_register_read 0xB
theorem decCountR : Statement .decCountR :=
  fun _ => decode_register_read 0xC
theorem lookupW (v : Word) : Statement (.lookupW v) :=
  fun _ => decode_register_write 0xD v
theorem lookupOutR : Statement .lookupOutR :=
  fun _ => decode_register_read 0xE
theorem fbSizeR : Statement .fbSizeR :=
  fun _ => decode_register_read 0xF
theorem palW (i : BitVec 4) (v : Word) : Statement (.palW i v) :=
  fun _ => decode_pal_write i v
theorem palR (i : BitVec 4) : Statement (.palR i) :=
  fun _ => decode_pal_read i
theorem fbW (n : BitVec 20) (v : Word) : Statement (.fbW n v) :=
  fun _ => decode_fb_write n v
theorem fbR (n : BitVec 20) : Statement (.fbR n) :=
  fun _ => decode_fb_read n
theorem cmdR : Statement .cmdR :=
  fun _ => decode_register_read 0x1
theorem encInR : Statement .encInR :=
  fun _ => decode_register_read 0x5
theorem decInR : Statement .decInR :=
  fun _ => decode_register_read 0x9
theorem lookupR : Statement .lookupR :=
  fun _ => decode_register_read 0xD
theorem encOutW (v : Word) : Statement (.encOutW v) :=
  fun _ => decode_register_write 0x6 v
theorem encPrevW (v : Word) : Statement (.encPrevW v) :=
  fun _ => decode_register_write 0x7 v
theorem encCountW (v : Word) : Statement (.encCountW v) :=
  fun _ => decode_register_write 0x8 v
theorem decOutW (v : Word) : Statement (.decOutW v) :=
  fun _ => decode_register_write 0xA v
theorem decPrevW (v : Word) : Statement (.decPrevW v) :=
  fun _ => decode_register_write 0xB v
theorem decCountW (v : Word) : Statement (.decCountW v) :=
  fun _ => decode_register_write 0xC v
theorem lookupOutW (v : Word) : Statement (.lookupOutW v) :=
  fun _ => decode_register_write 0xE v
theorem fbSizeW (v : Word) : Statement (.fbSizeW v) :=
  fun _ => decode_register_write 0xF v
theorem reservedR (k : BitVec 20) : Statement (.reservedR k) :=
  fun h => decode_space_read (of_decide_eq_true h)
theorem reservedW (k : BitVec 20) (v : Word) : Statement (.reservedW k v) :=
  fun h => decode_space_write v (of_decide_eq_true h)

end Sys2Proof.Laws.RoundTrip
end

