-- ==== Sys2Proof/Tests/Slice0.lean ====
section
/-! SUPPORT. The model's own tests: expected results come from spec/95_test_vectors.md (its vector named in each comment), from
the examples of the rules, or by hand from the rules; then one witness for each statement that has hypotheses. -/

namespace Sys2Proof.Tests

open Sys2Proof.Machine Sys2Proof.Safety

/-! ### Well-formedness: one ill-formed term for each check -/

theorem test_wellFormed_code : (Instr.cmdReserved8F 7).wellFormed = false ∧ (Instr.cmdReserved8F 8).wellFormed = true := by decide

theorem test_wellFormed_reserved_read : (Instr.reservedR 0x1F).wellFormed = false ∧ (Instr.reservedR 0x20).wellFormed = true := by
  decide

theorem test_wellFormed_reserved_write :
    (Instr.reservedW 0x1F 0).wellFormed = false ∧ (Instr.reservedW 0xFFFFF 0).wellFormed = true := by decide

/-! ### Decoding: each constructor from a code written out from the spec's tables -/

/-- 30_encoding.md R99. -/
theorem test_decode_ham6 : decode (.ham6 0b000011) = .ok (.usepal 3) ∧ decode (.ham6 0b011111) = .ok (.modr 15) ∧
    decode (.ham6 0b100000) = .ok (.modg 0) ∧ decode (.ham6 0b111000) = .ok (.modb 8) := by decide

/-- 30_encoding.md R95. -/
theorem test_decode_commands : decode (.cmd 0x0) = .ok .nop ∧ decode (.cmd 0x11) = .ok .encReset ∧
    decode (.cmd 0x2) = .ok .decReset ∧ decode (.cmd 0x3) = .ok .decCheck ∧ decode (.cmd 0x4) = .ok .ditherNaive ∧
    decode (.cmd 0x5) = .ok .ditherFs ∧ decode (.cmd 0xFFFFFFF6) = .ok .ditherJjn ∧ decode (.cmd 0x7) = .ok .cmdReserved7 ∧
    decode (.cmd 0x8) = .ok (.cmdReserved8F 0x8) ∧ decode (.cmd 0xF) = .ok (.cmdReserved8F 0xF) := by decide

/-- 10_state.md R21, the reads. -/
theorem test_decode_reads : decode (.mmio (.read 0x00 4)) = .ok .ctrlR ∧ decode (.mmio (.read 0x04 4)) = .ok .cmdR ∧
    decode (.mmio (.read 0x08 4)) = .ok .statusR ∧ decode (.mmio (.read 0x0C 4)) = .ok .widthR ∧
    decode (.mmio (.read 0x10 4)) = .ok .heightR ∧ decode (.mmio (.read 0x14 4)) = .ok .encInR ∧
    decode (.mmio (.read 0x18 4)) = .ok .encOutR ∧ decode (.mmio (.read 0x1C 4)) = .ok .encPrevR ∧
    decode (.mmio (.read 0x20 4)) = .ok .encCountR ∧ decode (.mmio (.read 0x24 4)) = .ok .decInR ∧
    decode (.mmio (.read 0x28 4)) = .ok .decOutR ∧ decode (.mmio (.read 0x2C 4)) = .ok .decPrevR ∧
    decode (.mmio (.read 0x30 4)) = .ok .decCountR ∧ decode (.mmio (.read 0x34 4)) = .ok .lookupR ∧
    decode (.mmio (.read 0x38 4)) = .ok .lookupOutR ∧ decode (.mmio (.read 0x3C 4)) = .ok .fbSizeR ∧
    decode (.mmio (.read 0x40 4)) = .ok (.palR 0) ∧ decode (.mmio (.read 0x7C 4)) = .ok (.palR 15) ∧
    decode (.mmio (.read 0x80 4)) = .ok (.reservedR 0x20) ∧ decode (.mmio (.read 0x3FFFFC 4)) = .ok (.reservedR 0xFFFFF) ∧
    decode (.mmio (.read 0x400000 4)) = .ok (.fbR 0) ∧ decode (.mmio (.read 0x7FFFFC 4)) = .ok (.fbR 0xFFFFF) := by decide

/-- 10_state.md R21, the writes. -/
theorem test_decode_writes : decode (.mmio (.write 0x00 4 1)) = .ok (.ctrlW 1) ∧ decode (.mmio (.write 0x04 4 1)) = .ok (.cmdW 1) ∧
    decode (.mmio (.write 0x08 4 1)) = .ok (.statusW1C 1) ∧ decode (.mmio (.write 0x0C 4 1)) = .ok (.widthW 1) ∧
    decode (.mmio (.write 0x10 4 1)) = .ok (.heightW 1) ∧ decode (.mmio (.write 0x14 4 1)) = .ok (.encInW 1) ∧
    decode (.mmio (.write 0x18 4 1)) = .ok (.encOutW 1) ∧ decode (.mmio (.write 0x1C 4 1)) = .ok (.encPrevW 1) ∧
    decode (.mmio (.write 0x20 4 1)) = .ok (.encCountW 1) ∧ decode (.mmio (.write 0x24 4 1)) = .ok (.decInW 1) ∧
    decode (.mmio (.write 0x28 4 1)) = .ok (.decOutW 1) ∧ decode (.mmio (.write 0x2C 4 1)) = .ok (.decPrevW 1) ∧
    decode (.mmio (.write 0x30 4 1)) = .ok (.decCountW 1) ∧ decode (.mmio (.write 0x34 4 1)) = .ok (.lookupW 1) ∧
    decode (.mmio (.write 0x38 4 1)) = .ok (.lookupOutW 1) ∧ decode (.mmio (.write 0x3C 4 1)) = .ok (.fbSizeW 1) ∧
    decode (.mmio (.write 0x44 4 1)) = .ok (.palW 1 1) ∧ decode (.mmio (.write 0x84 4 1)) = .ok (.reservedW 0x21 1) ∧
    decode (.mmio (.write 0x400014 4 1)) = .ok (.fbW 5 1) := by decide

/-- 20_memory.md R62. -/
theorem test_decode_refuses : decode (.mmio (.read 0x18 2)) = .error .narrow ∧ decode (.mmio (.read 0x19 4)) = .error .misaligned ∧
    decode (.mmio (.write 0x1A 1 5)) = .error .narrow ∧ decode (.mmio (.write 0x40000E 4 5)) = .error .misaligned := by decide

/-- The opcode table's numbering, one word of each format (log 13). -/
theorem test_table_words : decodeTableWord 8 0x30 = some (.modb 0) ∧ decodeTableWord 8 0x05 = some .ditherFs ∧
    decodeTableWord 32 0x08 = some (.cmdReserved8F 8) ∧ decodeTableWord 24 0x000014 = some (.encInW 0) ∧
    decodeTableWord 24 0xC00000 = some (.fbR 0) := by decide

/-! ### Small states -/

/-- The test palette TP of 95_test_vectors.md. -/
def tp : Vector Color12 16 :=
  #v[⟨0, 0, 0⟩, ⟨1, 0, 0⟩, ⟨8, 0, 0⟩, ⟨15, 0, 0⟩, ⟨0, 15, 0⟩, ⟨0, 0, 15⟩, ⟨15, 15, 0⟩, ⟨0, 15, 15⟩,
    ⟨15, 0, 15⟩, ⟨15, 15, 15⟩, ⟨8, 8, 8⟩, ⟨4, 4, 4⟩, ⟨8, 0, 8⟩, ⟨0, 8, 8⟩, ⟨8, 8, 0⟩, ⟨12, 12, 12⟩]

/-- Reset with `FB_PIXELS = 4096`, `RESET_PALETTE = TP` and the given rounding, then `DIMS w, h`. -/
def dims (mode : DiffDiv) (w h : BitVec 16) : State :=
  ((State.afterReset ⟨4096, tp, mode⟩ []).setWidth w).setHeight h

/-- A 2 x 2 frame (95_test_vectors.md 2.3). -/
def frame22 : State := dims .trunc 2 2

/-- A 1 x 1 frame with `DEC_PREV = (1, 2, 3)` (95_test_vectors.md 2.4). -/
def frame11 : State := (dims .trunc 1 1).setDec ⟨1, 2, 3⟩ 0

/-- The frame buffer holding the words `ps` from word `n` on. -/
def filled (n : Nat) (ps : List Word) (m : Memory) : Memory :=
  match ps with
  | [] => m
  | p :: ps => filled (n + 1) ps (fbWrite m n (rgb8Of p))

/-- What `f` reads in the next state of an answer. -/
def after {α : Type} (o : Answer) (f : State → α) : Option α :=
  match o with
  | .next t => some (f t)
  | _ => none

/-- The frame buffer's first `n` words as numbers. -/
def words (n : Nat) (s : State) : List (Option Word) := (List.range n).map (fun k => (fbRead s.mem k).map wordOfRgb8)

/-! ### Colour unit -/

/-- 40_color.md R120, R121; 95_test_vectors.md S1, S4. -/
theorem test_colour : quantize ⟨255, 128, 15⟩ = ⟨15, 8, 0⟩ ∧ expand ⟨0, 1, 15⟩ = ⟨0, 17, 255⟩ ∧
    expand (quantize ⟨20, 200, 240⟩) = ⟨17, 204, 255⟩ := by decide

/-- 95_test_vectors.md 2.1. -/
theorem test_dist : distance ⟨1, 2, 3⟩ ⟨4, 0, 3⟩ = 13 ∧ distance ⟨0, 0, 0⟩ ⟨15, 15, 15⟩ = 675 ∧ distance ⟨3, 9, 12⟩ ⟨12, 9, 3⟩ = 162 := by
  decide

/-- 95_test_vectors.md 2.1; 44_dither.md R222. -/
theorem test_q8_div : q8 200 = 204 ∧ q8 16 = 17 ∧ q8 240 = 255 ∧ diffDiv .trunc (-63) 16 = -3 ∧ diffDiv .floor (-63) 16 = -4 ∧
    diffDiv .trunc 105 16 = 6 := by decide

/-! ### Registers -/

/-- X13, X14. -/
theorem test_ctrl_width : after (exec (.ctrlW 0xFFFFFFFF) frame22) State.ffc = some true ∧
    after (exec (.widthW 0x12345) frame22) State.width = some 0x2345 ∧
    after (exec (.heightW 0x10003) frame22) State.height = some 3 := by decide

/-- 10_state.md R22, R25, R26, R37 and X16. -/
theorem test_register_reads : after (exec .ctrlR (frame22.setFfc true)) State.readData = some 1 ∧
    after (exec .widthR (dims .trunc 9029 1)) State.readData = some 0x2345 ∧
    after (exec .heightR (dims .trunc 3 0xFFFF)) State.readData = some 0xFFFF ∧
    after (exec .fbSizeR frame22) State.readData = some 0x1000 := by decide

/-- X8, X9. -/
theorem test_status : after (exec (.statusW1C 0x1) (frame22.setStatus 0xD)) State.status = some 0xC ∧
    after (exec .statusR (frame22.setStatus 0xC)) (fun s => (s.readData, s.status)) = some (0xC, 0xC) := by decide

/-- X10, X11. -/
theorem test_reads_zero : after (exec (.reservedR 0x20) (frame22.setReadData 7)) State.readData = some 0 ∧
    after (exec .cmdR (frame22.setReadData 7)) State.readData = some 0 ∧
    after (exec .encInR (frame22.setReadData 7)) State.readData = some 0 ∧
    after (exec .decInR (frame22.setReadData 7)) State.readData = some 0 ∧
    after (exec .lookupR (frame22.setReadData 7)) State.readData = some 0 := by decide

/-- X10, X12, 20_memory.md R67. -/
theorem test_writes_ignored : after (exec (.encOutW 0xFFFFFFFF) (frame22.setEncOut 3)) State.encOut = some 3 ∧
    after (exec (.encPrevW 0xFFF) frame22) State.encPrev = some ⟨0, 0, 0⟩ ∧
    after (exec (.encCountW 9) frame22) State.encCount = some 0 ∧ after (exec (.decOutW 9) frame22) State.decOut = some ⟨0, 0, 0⟩ ∧
    after (exec (.decPrevW 9) frame11) State.decPrev = some ⟨1, 2, 3⟩ ∧ after (exec (.decCountW 9) frame11) State.decCount = some 0 ∧
    after (exec (.lookupOutW 9) frame22) State.lookupOut = some 0 ∧
    after (exec (.fbSizeW 9) frame22) (fun s => s.params.fbPixels) = some 4096 ∧
    after (exec (.reservedW 0x20 9) frame22) State.mem = some [] := by decide

/-- X15, and 41_palette.md R141's example. -/
theorem test_palette : after (exec (.palW 15 0xFFFFFABC) frame22) (fun s => palGet s.pal 15) = some ⟨0xA, 0xB, 0xC⟩ ∧
    after (exec (.palR 2) frame22) State.readData = some 0x800 := by decide

/-! ### Lookup and encoder -/

/-- 95_test_vectors.md 2.2: 0x0F8 (distance 49 from entry 7), and a data word with high bits set. -/
theorem test_lookup : after (exec (.lookupW 0x0F8) frame22) State.lookupOut = some 0x317 ∧
    after (exec (.lookupW 0xFFFFF123) frame22) State.lookupOut = some 0xD1 := by decide

/-- S3: entries 4 and 8 at distance 1, every other (15, 15, 15). -/
theorem test_lookup_tie :
    after (exec (.lookupW 0x000) (frame22.setPal (palSet (palSet (Vector.replicate 16 ⟨15, 15, 15⟩) 4 ⟨1, 0, 0⟩) 8 ⟨0, 1, 0⟩)))
      State.lookupOut = some 0x14 := by decide

theorem test_lookup_out_read : after (exec .lookupOutR (frame22.setLookupOut 0x317)) State.readData = some 0x317 := by decide

/-- E3 (ignored bits) and E5 (a tie of `MODR` and `MODG`). -/
theorem test_encode : after (exec (.encInW 0xAB1F2F3F) frame22) (fun s => (s.encOut, s.encPrev, s.encCount)) =
      some (0x173, ⟨0, 0, 3⟩, 1) ∧
    after (exec (.encInW 0x00664455) (frame22.setEnc ⟨5, 5, 5⟩ 1)) (fun s => (s.encOut, s.encPrev)) =
      some (0x56, ⟨6, 5, 5⟩) := by decide

/-- E10 (forced at a row start) and E11 (not at a row start). -/
theorem test_encode_forced :
    after (exec (.encInW 0x008888FF) ((frame22.setFfc true).setEnc ⟨8, 8, 8⟩ 2)) (fun s => (s.encOut, s.encPrev)) =
      some (0xA4F, ⟨12, 12, 12⟩) ∧
    after (exec (.encInW 0x008888FF) ((frame22.setFfc true).setEnc ⟨8, 8, 8⟩ 3)) (fun s => (s.encOut, s.encPrev)) =
      some (0x3F, ⟨8, 8, 15⟩) := by decide

/-- X1. -/
theorem test_encode_overflow : after (exec (.encInW 0x123456) State.reset) (fun s => (s.status, s.encCount, s.encOut)) =
    some (1, 0, 0) := by decide

theorem test_enc_reset : after (exec .encReset (frame22.setEnc ⟨8, 8, 8⟩ 3)) (fun s => (s.encPrev, s.encCount)) =
    some (⟨0, 0, 0⟩, 0) := by decide

/-- 42_encoder.md R167. -/
theorem test_encoder_reads : after (exec .encOutR (frame22.setEncOut 0x709F)) State.readData = some 0x709F ∧
    after (exec .encPrevR (frame22.setEnc ⟨1, 2, 3⟩ 7)) State.readData = some 0x123 ∧
    after (exec .encCountR (frame22.setEnc ⟨1, 2, 3⟩ 7)) State.readData = some 7 := by decide

/-! ### Decoder -/

/-- 95_test_vectors.md 2.4: words 0x03, 0x19, 0x20, 0x3F. -/
theorem test_ham6 : after (exec (.usepal 3) frame11) (fun s => (s.decOut, s.decPrev, s.decCount)) =
      some (⟨0xFF, 0, 0⟩, ⟨15, 0, 0⟩, 1) ∧
    after (exec (.modr 9) frame11) State.decOut = some ⟨0x99, 0x22, 0x33⟩ ∧
    after (exec (.modg 0) frame11) State.decOut = some ⟨0x11, 0, 0x33⟩ ∧
    after (exec (.modb 15) frame11) State.decOut = some ⟨0x11, 0x22, 0xFF⟩ := by decide

/-- D-hi and X2. -/
theorem test_dec_in : after (exec (.decInW 0xFFFFFFC5) (dims .trunc 1 1)) State.decOut = some ⟨0, 0, 0xFF⟩ ∧
    after (exec (.decInW 0x05) ((dims .trunc 1 1).setDec ⟨0, 0, 0⟩ 1)) (fun s => (s.status, s.decCount)) = some (2, 1) := by decide

/-- D-reset, X4, X5. -/
theorem test_dec_commands : after (exec .decReset (frame11.setDec ⟨1, 2, 3⟩ 9)) (fun s => (s.decPrev, s.decCount)) =
      some (⟨0, 0, 0⟩, 0) ∧
    after (exec .decCheck (frame22.setDec ⟨0, 0, 0⟩ 3)) (fun s => (s.status, s.decCount)) = some (4, 3) ∧
    after (exec .decCheck (dims .trunc 0 0)) State.status = some 0 := by decide

/-- 43_decoder.md R199. -/
theorem test_decoder_reads : after (exec .decOutR (frame11.setDecOut ⟨0x99, 0x22, 0x33⟩)) State.readData = some 0x992233 ∧
    after (exec .decPrevR frame11) State.readData = some 0x123 ∧
    after (exec .decCountR (frame11.setDec ⟨0, 0, 0⟩ 5)) State.readData = some 5 := by decide

/-! ### Commands, frame buffer, port -/

/-- X6, X7, X19. -/
theorem test_commands : after (exec .nop (frame22.setStatus 5)) State.status = some 5 ∧
    after (exec .cmdReserved7 frame22) State.status = some 8 ∧ after (exec (.cmdReserved8F 0xF) frame22) State.status = some 8 ∧
    after (exec (.cmdW 0x11) (frame22.setEnc ⟨1, 1, 1⟩ 2)) State.encCount = some 0 ∧
    after (exec (.cmdW 0xF) frame22) State.status = some 8 := by decide

/-- 20_memory.md R69; X17. -/
theorem test_fb : after (exec (.fbW 5 0xFF1F2F3F) frame22) State.mem =
      some [(0x400014, 0x3F), (0x400015, 0x2F), (0x400016, 0x1F)] ∧
    after (exec (.fbR 5) (frame22.setMem [(0x400014, 0x3F), (0x400015, 0x2F), (0x400016, 0x1F)])) State.readData = some 0x1F2F3F ∧
    after (exec (.fbW 4096 0x1) frame22) State.mem = some [] ∧ after (exec (.fbR 4096) frame22) State.readData = some 0 := by decide

/-- X18. -/
theorem test_fb_unwritten : (match exec (.fbR 0) frame22 with | .fault f => some f | _ => none) = some (.unwrittenFrameBuffer 0) := by
  decide

/-- One step: the oldest access, the others kept. -/
theorem test_step : after (step (frame22.setPort [.access (.write 0x0C 4 7), .access (.read 0x0C 4)])) (fun s => (s.width, s.port)) =
    some (7, [.access (.read 0x0C 4)]) := by decide

/-- A refused access and an idle step. -/
theorem test_step_refuses :
    (match step (frame22.setPort [.access (.read 0x18 2)]) with | .refused r => some r | _ => none) = some .narrowAccess ∧
    after (step frame22) (fun s => decide (s = frame22)) = some true := by decide

/-- The block reset as an event. -/
theorem test_step_reset : after (step ((frame22.setStatus 5).setPort [.blockReset])) (fun s => (s.status, s.width, s.pal)) =
    some (0, 0, tp) := by decide

/-- The table's words run as the first event after reset (log 13). -/
theorem test_fetch_word : after (step (State.reset.withFetchWord 24 0x00000C)) (fun s => (s.width, s.port)) = some (0, []) ∧
    after (step (State.reset.withFetchWord 8 0x10)) State.status = some 2 ∧
    after (step (State.reset.withFetchWord 8 0x07)) State.status = some 8 := by decide

/-! ### Dither -/

/-- T1. -/
theorem test_naive : after (exec .ditherNaive ((dims .trunc 3 1).setMem (filled 0 (List.replicate 3 0x141414) []))) (words 3) =
    some [some 0x141414, some 0x171717, some 0x171717] := by decide +kernel

/-- T2: the error runs on across the row end, and one channel clamps at 0. -/
theorem test_naive_rows : after (exec .ditherNaive ((dims .trunc 4 2).setMem (filled 0
      [0x141414, 0xF0F0F0, 0x00FF80, 0x818181, 0xFEFE01, 0x102030, 0x0F0F0F, 0x888888] []))) (words 8) =
    some [some 0x141414, some 0xF3F3F3, some 0x00F071, some 0x81818A, some 0xF7F700, some 0x0F1F31, some 0x1F1E0C,
      some 0x868697] := by decide +kernel

/-- T5 and T6: the two roundings. -/
theorem test_fs : after (exec .ditherFs ((dims .trunc 4 4).setMem (filled 0 (List.replicate 16 0xF0F0F0) []))) (words 16) =
      some ([0xF0F0F0, 0xF0F0F0, 0xF0F0F0, 0xF0F0F0, 0xF0F0F0, 0xE1E1E1, 0xEAEAEA, 0xF0F0F0, 0xEEEEEE, 0xECECEC, 0xF0F0F0, 0xF0F0F0,
        0xF0F0F0, 0xF0F0F0, 0xF0F0F0, 0xF0F0F0].map some) := by decide +kernel

theorem test_fs_floor : after (exec .ditherFs ((dims .floor 4 4).setMem (filled 0 (List.replicate 16 0xF0F0F0) []))) (words 16) =
      some ([0xF0F0F0, 0xF0F0F0, 0xF0F0F0, 0xF0F0F0, 0xF0F0F0, 0xE1E1E1, 0xE9E9E9, 0xF0F0F0, 0xEDEDED, 0xEBEBEB, 0xEFEFEF, 0xF0F0F0,
        0xF0F0F0, 0xF0F0F0, 0xF0F0F0, 0xF0F0F0].map some) := by decide +kernel

/-- T10: four processed pixels, later ones see earlier diffusion. -/
theorem test_jjn : after (exec .ditherJjn ((dims .trunc 8 5).setMem (filled 0 (List.replicate 40 0x1F1F1F) []))) (words 40) =
      some ([0x1F1F1F, 0x1F1F1F, 0x1F1F1F, 0x2D2D2D, 0x202020, 0x202020, 0x1F1F1F, 0x1F1F1F,
        0x1F1F1F, 0x202020, 0x212121, 0x1E1E1E, 0x2D2D2D, 0x212121, 0x202020, 0x1F1F1F,
        0x1F1F1F, 0x1F1F1F, 0x212121, 0x212121, 0x202020, 0x1F1F1F, 0x1F1F1F, 0x1F1F1F,
        0x1F1F1F, 0x1F1F1F, 0x1F1F1F, 0x202020, 0x1F1F1F, 0x1F1F1F, 0x1F1F1F, 0x1F1F1F,
        0x1F1F1F, 0x1F1F1F, 0x1F1F1F, 0x1F1F1F, 0x1F1F1F, 0x1F1F1F, 0x1F1F1F, 0x1F1F1F].map some) := by decide +kernel

/-- X3; and T9: an empty range reads nothing, so an unwritten raster is no fault. -/
theorem test_dither_guards : after (exec .ditherFs (dims .trunc 65 64)) State.status = some 8 ∧
    after (exec .ditherJjn (dims .trunc 6 4)) State.status = some 0 := by decide

/-- 70_reset_and_hazards.md R288. -/
theorem test_dither_unwritten :
    (match exec .ditherNaive ((dims .trunc 2 1).setMem (filled 0 [0x141414] [])) with | .fault f => some f | _ => none) =
      some (.unwrittenFrameBuffer 1) := by decide +kernel

/-! ### Witnesses: for each statement with hypotheses, states and operands that meet them all, at the ends of their ranges -/

/-- The answer is a next state. -/
def completes (o : Answer) : Bool :=
  match o with
  | .next _ => true
  | _ => false

theorem completes_iff {o : Answer} (h : completes o = true) : ∃ t, o = .next t := by
  cases o with
  | next t => exact ⟨t, rfl⟩
  | _ => cases h

/-- Every word of the raster is written, as a test. -/
def rasterWritten (s : State) : Bool := (List.range (s.width.toNat * s.height.toNat)).all (fun n => (fbRead s.mem n).isSome)

theorem rasterWritten_iff {s : State} (h : rasterWritten s = true) : RasterWritten s := by
  intro n hn
  exact Option.isSome_iff_exists.1 (List.all_eq_true.1 h n (List.mem_range.2 hn))

/-- A raster of `w` by `h` equal grey pixels, in the frame buffer from word 0 on. -/
def grey (w h : BitVec 16) : State :=
  (dims .trunc w h).setMem (filled 0 (List.replicate (w.toNat * h.toNat) 0x1F1F1F) [])

theorem witness_ResetLeavesTheResetValues : (frame22.setPort [.blockReset]).port = .blockReset :: [] := rfl

theorem witness_StepRunsTheDecodedAccess :
    (frame22.setPort [.access (.write 0x0C 4 7)]).port = .access (.write 0x0C 4 7) :: [] ∧
    decode (.mmio (.write 0x0C 4 7)) = .ok (.widthW 7) := by decide

theorem witness_IdleStepChangesNothing : frame22.port = [] := rfl

theorem witness_StepRefusesExactlyNarrowOrMisaligned :
    (frame22.setPort [.access (.read 0x7FFFFC 4)]).port = .access (.read 0x7FFFFC 4) :: [] ∧
    (frame22.setPort [.access (.write 0x7FFFFD 4 0)]).port = .access (.write 0x7FFFFD 4 0) :: [] ∧
    (frame22.setPort [.access (.read 0 3)]).port = .access (.read 0 3) :: [] := ⟨rfl, rfl, rfl⟩

theorem witness_DecodeOfEncodeIsTheInstruction : (Instr.cmdReserved8F 8).wellFormed = true ∧
    (Instr.cmdReserved8F 15).wellFormed = true ∧ (Instr.reservedR 0x20).wellFormed = true ∧
    (Instr.reservedW 0xFFFFF 3).wellFormed = true ∧ encode (.reservedR 0x20) = encode (.reservedR 0x20) := by decide

theorem witness_EncodeOfDecodedAccessIsTheAccess : (0x3C#23).toNat % 4 = 0 ∧ (0x7C#23).toNat % 4 = 0 ∧
    (0x80#23).toNat % 4 = 0 ∧ (0x3FFFFC#23).toNat % 4 = 0 ∧ (0x400000#23).toNat % 4 = 0 ∧ (0x7FFFFC#23).toNat % 4 = 0 := by decide

theorem witness_CommandIsChosenByTheLowFourBits : (0xFFFFFFF0#32).toNat % 16 = 0 ∧ (0x11#32).toNat % 16 = 1 ∧
    (2#32).toNat % 16 = 2 ∧ (3#32).toNat % 16 = 3 ∧ (4#32).toNat % 16 = 4 ∧ (5#32).toNat % 16 = 5 ∧ (6#32).toNat % 16 = 6 ∧
    (7#32).toNat % 16 = 7 ∧ 8 ≤ (8#32).toNat % 16 ∧ 8 ≤ (0xFFFFFFFF#32).toNat % 16 := by decide

theorem witness_StatusBitsAreStickyUntilWrittenOne : (∀ v, Instr.nop ≠ .statusW1C v) ∧
    exec .nop (frame22.setStatus 0x9) = .next (frame22.setStatus 0x9) ∧
    (frame22.setStatus 0x9).status.getLsbD 3 = true ∧ (frame22.setStatus 0x9).status.getLsbD 0 = true :=
  ⟨by simp, rfl, rfl, rfl⟩

theorem witness_FbSizeReadsAConstant : exec (.ctrlW 1) frame22 = .next (frame22.setFfc true) := rfl

theorem witness_ReservedSpaceReadsZeroAndIgnoresWrites :
    (0x80#23).toNat % 4 = 0 ∧ 0x80 ≤ (0x80#23).toNat ∧ (0x80#23).toNat ≤ 0x3FFFFF ∧
    (0x3FFFFC#23).toNat % 4 = 0 ∧ 0x80 ≤ (0x3FFFFC#23).toNat ∧ (0x3FFFFC#23).toNat ≤ 0x3FFFFF ∧
    (frame22.setPort [.access (.read 0x80 4)]).port = .access (.read 0x80 4) :: [] ∧
    (frame22.setPort [.access (.write 0x3FFFFC 4 5)]).port = .access (.write 0x3FFFFC 4 5) :: [] := by decide

theorem witness_BeyondCapacityReadsZeroAndIgnoresWrites :
    frame22.params.fbPixels ≤ (4096#20).toNat ∧ frame22.params.fbPixels ≤ (0xFFFFF#20).toNat ∧
    (0x404000#23).toNat % 4 = 0 ∧ 0x400000 + 4 * (frame22.setPort [.access (.read 0x404000 4)]).params.fbPixels ≤ (0x404000#23).toNat ∧
    (frame22.setPort [.access (.read 0x404000 4)]).port = .access (.read 0x404000 4) :: [] ∧
    (0x7FFFFC#23).toNat % 4 = 0 ∧ 0x400000 + 4 * (frame22.setPort [.access (.write 0x7FFFFC 4 1)]).params.fbPixels ≤ (0x7FFFFC#23).toNat ∧
    (frame22.setPort [.access (.write 0x7FFFFC 4 1)]).port = .access (.write 0x7FFFFC 4 1) :: [] := by decide

theorem witness_FrameBufferWriteStoresOnePixel :
    (0#20).toNat < frame22.params.fbPixels ∧ (4095#20).toNat < frame22.params.fbPixels := by decide

theorem witness_FrameBufferReadReturnsTheWrittenPixel : (4095#20).toNat < frame22.params.fbPixels ∧
    fbRead (frame22.setMem (filled 4095 [0x1F2F3F] [])).mem (4095#20).toNat = some ⟨0x1F, 0x2F, 0x3F⟩ := by decide

theorem witness_OnlyUnwrittenWordsStopTheMachine : (4095#20).toNat < frame22.params.fbPixels ∧ ¬ Written frame22 (4095#20).toNat ∧
    exec (.fbR 0) frame22 = .fault (.unwrittenFrameBuffer 0) ∧ exec .ditherNaive frame22 = .fault (.unwrittenFrameBuffer 0) ∧
    exec (.cmdW 4) frame22 = .fault (.unwrittenFrameBuffer 0) :=
  ⟨by decide, fun ⟨_, h⟩ => (by cases h), rfl, rfl, rfl⟩

theorem witness_DiffusionDivisionRounds : 0 < 1 ∧ 0 < 48 ∧ (0 : Int) ≤ 0 ∧ (-1 : Int) ≤ 0 := by decide

theorem witness_PaletteWriteAndRead : (0 : BitVec 4) ≠ 15 := by decide

theorem witness_NearestIsTheLeastIndexAtTheSmallestDistance : IsNearest frame22.pal ⟨15, 15, 15⟩ 9 := by
  unfold IsNearest
  decide

theorem witness_EncoderEmitsTheFirstCandidateAtTheSmallestDistance :
    frame22.encCount.toNat < frame22.width.toNat * frame22.height.toNat ∧ frame22.ffc = false ∧
    ((frame22.setFfc true).setEnc ⟨1, 2, 3⟩ 3).encCount.toNat < frame22.width.toNat * frame22.height.toNat ∧
    ((frame22.setFfc true).setEnc ⟨1, 2, 3⟩ 3).encCount.toNat % frame22.width.toNat ≠ 0 := by decide

theorem witness_ForcedFirstColumnUsesThePalette :
    ((frame22.setFfc true).setEnc ⟨1, 2, 3⟩ 2).encCount.toNat < frame22.width.toNat * frame22.height.toNat ∧
    ((frame22.setFfc true).setEnc ⟨1, 2, 3⟩ 2).ffc = true ∧
    ((frame22.setFfc true).setEnc ⟨1, 2, 3⟩ 2).encCount.toNat % frame22.width.toNat = 0 := by decide

theorem witness_EncoderOverflowOnlySetsItsBit :
    frame22.width.toNat * frame22.height.toNat ≤ (frame22.setEnc ⟨1, 2, 3⟩ 4).encCount.toNat ∧
    State.reset.width.toNat * State.reset.height.toNat ≤ State.reset.encCount.toNat := by decide

theorem witness_EncResetClearsPreviousColourAndCount : (1#32).toNat % 16 = 1 ∧ (0xFFFFFFF1#32).toNat % 16 = 1 := by decide

/-- Entry 9 is the first white one; (1, 2, 3) is in no entry, and agrees with `ENC_PREV = (9, 2, 3)` on green and blue. -/
theorem witness_ExactTargetsEncodeAtDistanceZero :
    frame22.encCount.toNat < frame22.width.toNat * frame22.height.toNat ∧
    palGet frame22.pal 9 = targetOf 0xFFFFFF ∧ (∀ j : BitVec 4, j.toNat < (9#4).toNat → palGet frame22.pal j ≠ targetOf 0xFFFFFF) ∧
    (∀ j : BitVec 4, palGet frame22.pal j ≠ targetOf 0x102030) ∧ frame22.ffc = false ∧
    (frame22.setEnc ⟨9, 2, 3⟩ 3).encCount.toNat < frame22.width.toNat * frame22.height.toNat ∧
    (frame22.setEnc ⟨9, 2, 3⟩ 3).encPrev.g = (targetOf 0x102030).g ∧
    (frame22.setEnc ⟨9, 2, 3⟩ 3).encPrev.b = (targetOf 0x102030).b := by decide

theorem witness_Ham6InstructionsReconstructTheirColour :
    frame11.decCount.toNat < frame11.width.toNat * frame11.height.toNat := by decide

theorem witness_DecInRunsItsWord : (3#4).toNat = (0xFFFFFFC3#32).toNat % 16 ∧ (0xFFFFFFC3#32).toNat / 16 % 4 = 0 ∧
    (15#4).toNat = (0x1F#32).toNat % 16 ∧ (0x1F#32).toNat / 16 % 4 = 1 ∧ (0#4).toNat = (0x20#32).toNat % 16 ∧
    (0x20#32).toNat / 16 % 4 = 2 ∧ (8#4).toNat = (0x38#32).toNat % 16 ∧ (0x38#32).toNat / 16 % 4 = 3 ∧
    frame11.decCount.toNat < frame11.width.toNat * frame11.height.toNat := by decide

theorem witness_DecoderOverflowOnlySetsItsBit :
    frame11.width.toNat * frame11.height.toNat ≤ (frame11.setDec ⟨1, 2, 3⟩ 1).decCount.toNat := by decide

theorem witness_DecResetClearsPreviousColourAndCount : (0x12#32).toNat % 16 = 2 := by decide

theorem witness_DecCheckComparesCountWithFrameSize : (0x13#32).toNat % 16 = 3 ∧
    (frame11.setDec ⟨1, 2, 3⟩ 1).decCount.toNat = frame11.width.toNat * frame11.height.toNat ∧
    frame11.decCount.toNat ≠ frame11.width.toNat * frame11.height.toNat := by decide

theorem witness_ModifyWordsDoNotReadThePalette : frame11.decCount.toNat < frame11.width.toNat * frame11.height.toNat ∧
    palGet (palSet frame11.pal 4 ⟨1, 1, 1⟩) 3 = palGet frame11.pal 3 := by decide

theorem witness_DecodingTheEmittedWordFollowsTheEncoder : frame22.encPrev = frame22.decPrev ∧
    frame22.encCount.toNat < frame22.width.toNat * frame22.height.toNat ∧
    frame22.decCount.toNat < frame22.width.toNat * frame22.height.toNat := by decide

theorem witness_DecodedStreamIsTheEncodersColours :
    exec .encReset frame11 = .next (frame11.setEnc ⟨0, 0, 0⟩ 0) ∧
    exec .decReset (frame11.setEnc ⟨0, 0, 0⟩ 0) = .next ((frame11.setEnc ⟨0, 0, 0⟩ 0).setDec ⟨0, 0, 0⟩ 0) ∧
    [(0x1F2F3F : Word)].length = frame11.width.toNat * frame11.height.toNat := ⟨rfl, rfl, rfl⟩

/-- Four pixels that quantize to entries 0, 3, 9 and 10; only the third is its own quantized colour expanded. -/
theorem witness_PaletteColouredImagesComeBackExactly : frame22.encPrev = frame22.decPrev ∧
    frame22.encCount.toNat + [(0x0F0F0F : Word), 0xF00000, 0xFFFFFF, 0x808182].length ≤ frame22.width.toNat * frame22.height.toNat ∧
    frame22.decCount.toNat + [(0x0F0F0F : Word), 0xF00000, 0xFFFFFF, 0x808182].length ≤ frame22.width.toNat * frame22.height.toNat ∧
    ∀ v ∈ [(0x0F0F0F : Word), 0xF00000, 0xFFFFFF, 0x808182], ∃ i : BitVec 4, palGet frame22.pal i = targetOf v := by
  refine ⟨rfl, by decide, by decide, ?_⟩
  intro v hv
  simp only [List.mem_cons, List.not_mem_nil, or_false] at hv
  rcases hv with rfl | rfl | rfl | rfl
  · exact ⟨0, by decide⟩
  · exact ⟨3, by decide⟩
  · exact ⟨9, by decide⟩
  · exact ⟨10, by decide⟩

/-- 241 * 17 = 4097, one more than the capacity. -/
theorem witness_CmdErrOnlySetsItsBit : 7 ≤ (7#32).toNat % 16 ∧ 7 ≤ (0xFF#32).toNat % 16 ∧ isDither .ditherNaive = true ∧
    isDither .ditherFs = true ∧ isDither .ditherJjn = true ∧ isDither (.cmdW 0xF4) = true ∧ isDither (.cmdW 5) = true ∧
    isDither (.cmdW 6) = true ∧
    (dims .trunc 241 17).params.fbPixels < (dims .trunc 241 17).width.toNat * (dims .trunc 241 17).height.toNat := by decide

theorem witness_AnAccessRaisesAtMostOneError :
    exec .cmdReserved7 frame22 = .next (frame22.setStatus 8) ∧ ∀ v, Instr.cmdReserved7 ≠ .statusW1C v := ⟨rfl, by simp⟩

theorem witness_NoResultDependsOnStatus : Instr.widthW 3 ≠ .statusR ∧ exec (.widthW 3) frame22 = .next (frame22.setWidth 3) ∧
    Instr.fbR 0 ≠ .statusR ∧ exec (.fbR 0) frame22 = .fault (.unwrittenFrameBuffer 0) := ⟨by simp, rfl, by simp, rfl⟩

theorem witness_ReadsHaveNoSideEffect : isHostRead .widthR = true ∧ exec .widthR frame22 = .next (frame22.setReadData 2) ∧
    isHostRead (.fbR 4096) = true ∧ exec (.fbR 4096) frame22 = .next (frame22.setReadData 0) := ⟨rfl, rfl, rfl, rfl⟩

theorem witness_OnlyItsOwnInstructionsChangeEachUnit :
    exec (.widthW 3) frame22 = .next (frame22.setWidth 3) ∧ (frame22.setWidth 3).width ≠ frame22.width ∧
    exec (.cmdW 0xF4) ((dims .trunc 0 0).setDthErr ⟨1, 2, 3⟩) = .next (dims .trunc 0 0) ∧
    (dims .trunc 0 0).dthErr ≠ ((dims .trunc 0 0).setDthErr ⟨1, 2, 3⟩).dthErr := ⟨rfl, by decide, rfl, by decide⟩

/-- The step of each unit, and the reset to 0 of each counter, as a command and as a `CMD` write. -/
theorem witness_CountersAdvanceByOneOrReset :
    exec (.encInW 0) frame22 = .next ((frame22.setEnc ⟨0, 0, 0⟩ 1).setEncOut 0) ∧
    exec (.usepal 0) frame11 = .next ((frame11.setDec ⟨0, 0, 0⟩ 1).setDecOut ⟨0, 0, 0⟩) ∧
    exec .encReset (frame22.setEnc ⟨1, 2, 3⟩ 0xFFFFFFFF) = .next (frame22.setEnc ⟨0, 0, 0⟩ 0) ∧
    exec (.cmdW 0x11) (frame22.setEnc ⟨1, 2, 3⟩ 3) = .next (frame22.setEnc ⟨0, 0, 0⟩ 0) ∧
    exec .decReset (frame11.setDec ⟨1, 2, 3⟩ 0xFFFFFFFF) = .next (frame11.setDec ⟨0, 0, 0⟩ 0) ∧
    exec (.cmdW 0x12) (frame11.setDec ⟨1, 2, 3⟩ 1) = .next (frame11.setDec ⟨0, 0, 0⟩ 0) := ⟨rfl, rfl, rfl, rfl, rfl, rfl⟩

theorem witness_OnlyFrameBufferInstructionsReadTheFrameBuffer : isDither (.widthW 3) = false ∧
    (∀ n v, Instr.widthW 3 ≠ .fbW n v) ∧ (∀ n, Instr.widthW 3 ≠ .fbR n) ∧ exec (.widthW 3) frame22 = .next (frame22.setWidth 3) :=
  ⟨rfl, by simp, by simp, rfl⟩

theorem witness_DitherNaiveCarriesTheRunningError : RasterFits (grey 2 2) ∧ RasterWritten (grey 2 2) :=
  ⟨by unfold RasterFits; decide, rasterWritten_iff (by decide +kernel)⟩

/-- A raster of `w` by `h` of which only the `k` words from word `n` on are written. -/
def greyPart (w h : BitVec 16) (n k : Nat) : State :=
  (dims .trunc w h).setMem (filled n (List.replicate k 0x1F1F1F) [])

/-- Pixel `(x, y)` and its neighbours are written, as a test. -/
def readsWritten (kernel : List (Int × Int × Int)) (s : State) (x y : Int) : Bool :=
  ((0, 0, 0) :: kernel).all (fun k => (fbRead s.mem ((y + k.2.1) * (s.width.toNat : Int) + (x + k.1)).toNat).isSome)

theorem readsWritten_iff {kernel : List (Int × Int × Int)} {s : State} {x y : Int} (h : readsWritten kernel s x y = true) :
    PixelWritten s x y ∧ ∀ k ∈ kernel, PixelWritten s (x + k.1) (y + k.2.1) := by
  have hk := List.all_eq_true.1 h
  refine ⟨?_, fun k hm => Option.isSome_iff_exists.1 (hk k (List.mem_cons_of_mem _ hm))⟩
  have h0 := Option.isSome_iff_exists.1 (hk (0, 0, 0) List.mem_cons_self)
  simpa [PixelWritten, Written] using h0

/-- Only words 4 to 10 of the 4 by 4 raster are written: pixel (1, 1) and its neighbours are among them, row 0 is not. -/
theorem witness_DitherFsIsThePseudocodeOnEachChannel : RasterFits (greyPart 4 4 4 7) ∧ ¬ RasterWritten (greyPart 4 4 4 7) ∧
    KernelReadsWritten fsNeighbours 1 (((greyPart 4 4 4 7).width.toNat : Int) - 3) 1
      (((greyPart 4 4 4 7).height.toNat : Int) - 3) (greyPart 4 4 4 7) := by
  refine ⟨by unfold RasterFits; decide, fun h => ?_, fun x y h1 h2 h3 h4 => ?_⟩
  · obtain ⟨p, hp⟩ := h 0 (by decide)
    cases hp
  · rw [show (greyPart 4 4 4 7).width.toNat = 4 from rfl] at h2
    rw [show (greyPart 4 4 4 7).height.toNat = 4 from rfl] at h4
    obtain rfl : x = 1 := by omega
    obtain rfl : y = 1 := by omega
    exact readsWritten_iff (by decide +kernel)

/-- Only words 3 to 18 of the 7 by 4 raster are written: pixel (3, 0) and its neighbours are among them, the last row is not. -/
theorem witness_DitherJjnIsThePseudocodeOnEachChannel : RasterFits (greyPart 7 4 3 16) ∧ ¬ RasterWritten (greyPart 7 4 3 16) ∧
    KernelReadsWritten jjnNeighbours 3 (((greyPart 7 4 3 16).width.toNat : Int) - 4) 0
      (((greyPart 7 4 3 16).height.toNat : Int) - 4) (greyPart 7 4 3 16) := by
  refine ⟨by unfold RasterFits; decide, fun h => ?_, fun x y h1 h2 h3 h4 => ?_⟩
  · obtain ⟨p, hp⟩ := h 0 (by decide)
    cases hp
  · rw [show (greyPart 7 4 3 16).width.toNat = 7 from rfl] at h2
    rw [show (greyPart 7 4 3 16).height.toNat = 4 from rfl] at h4
    obtain rfl : x = 3 := by omega
    obtain rfl : y = 0 := by omega
    exact readsWritten_iff (by decide +kernel)

/-- A written raster (the clause that completes) and an unwritten one of exactly the capacity (the clause that faults). -/
theorem witness_DitherNaiveFaultsExactlyOnUnwrittenWords : RasterFits (grey 2 2) ∧ RasterWritten (grey 2 2) ∧
    RasterFits (dims .trunc 64 64) ∧ ¬ RasterWritten (dims .trunc 64 64) :=
  ⟨by unfold RasterFits; decide, rasterWritten_iff (by decide +kernel), by unfold RasterFits; decide,
    fun h => by obtain ⟨p, hp⟩ := h 0 (by decide); cases hp⟩

theorem witness_DitherFsFaultsExactlyOnUnwrittenWords : RasterFits (grey 4 4) ∧ completes (exec .ditherFs (grey 4 4)) = true ∧
    RasterFits (dims .trunc 64 64) ∧ ¬ PixelWritten (dims .trunc 64 64) 61 61 :=
  ⟨by unfold RasterFits; decide, by decide +kernel, by unfold RasterFits; decide, fun ⟨_, h⟩ => (by cases h)⟩

theorem witness_DitherJjnFaultsExactlyOnUnwrittenWords : RasterFits (grey 7 4) ∧ completes (exec .ditherJjn (grey 7 4)) = true ∧
    RasterFits (dims .trunc 64 64) ∧ ¬ PixelWritten (dims .trunc 64 64) 60 60 :=
  ⟨by unfold RasterFits; decide, by decide +kernel, by unfold RasterFits; decide, fun ⟨_, h⟩ => (by cases h)⟩

theorem witness_EmptyRangesChangeNothing : RasterFits (dims .trunc 3 9) ∧ RasterFits (dims .trunc 9 3) ∧
    (dims .trunc 3 9).width.toNat < 4 ∧ (dims .trunc 9 3).height.toNat < 4 ∧ RasterFits (dims .trunc 6 4) ∧
    (dims .trunc 6 4).width.toNat < 7 := by
  unfold RasterFits
  decide

/-- One pass of each kind that completes on a raster with the pixel (0, 1) below the margin rows. -/
theorem witness_MarginPixelsAreNeverWritten : RasterFits (grey 7 4) ∧ (0 : Int) ≤ 5 ∧ (5 : Int) < (grey 7 4).width.toNat ∧
    (0 : Int) ≤ 1 ∧ (1 : Int) < (grey 7 4).height.toNat ∧ (∃ t, exec .ditherNaive (grey 7 4) = .next t) ∧
    (∃ t, exec .ditherFs (grey 7 4) = .next t) ∧ (∃ t, exec .ditherJjn (grey 7 4) = .next t) ∧
    ((5 : Int) = ((grey 7 4).width.toNat : Int) - 2 ∧ (1 : Int) = ((grey 7 4).height.toNat : Int) - 3) :=
  ⟨by unfold RasterFits; decide, by decide, by decide, by decide, by decide, completes_iff (by decide +kernel),
    completes_iff (by decide +kernel), completes_iff (by decide +kernel), by decide⟩

/-- The corners of the three lists of margin pixels on the same 7 by 4 raster. -/
theorem witness_MarginPixelsAreNeverWritten_corners :
    (∀ p ∈ [((0 : Int), (0 : Int)), (6, 0), (0, 3), (6, 3), (0, 1), (2, 0), (5, 1), (5, 2)],
      0 ≤ p.1 ∧ p.1 < (grey 7 4).width.toNat ∧ 0 ≤ p.2 ∧ p.2 < (grey 7 4).height.toNat) ∧
    ((2 : Int) ≤ 2 ∧ (5 : Int) = ((grey 7 4).width.toNat : Int) - 2 ∧ (2 : Int) = ((grey 7 4).height.toNat : Int) - 2) := by decide

theorem witness_DitherChangesOnlyTheRaster : RasterFits (grey 7 4) ∧ (∃ t, exec .ditherNaive (grey 7 4) = .next t) ∧
    (∃ t, exec .ditherFs (grey 7 4) = .next t) ∧ (∃ t, exec .ditherJjn (grey 7 4) = .next t) :=
  ⟨by unfold RasterFits; decide, completes_iff (by decide +kernel), completes_iff (by decide +kernel),
    completes_iff (by decide +kernel)⟩

/-- The two states differ in every codec register but share raster, dimensions and parameters. -/
theorem witness_DitherReadsNoCodecRegister : isDither .ditherFs = true ∧ RasterFits (grey 4 4) ∧
    (((grey 4 4).setFfc true).setEnc ⟨1, 2, 3⟩ 4).mem = (grey 4 4).mem ∧
    (((grey 4 4).setFfc true).setEnc ⟨1, 2, 3⟩ 4).width = (grey 4 4).width ∧
    (((grey 4 4).setFfc true).setEnc ⟨1, 2, 3⟩ 4).height = (grey 4 4).height ∧
    (((grey 4 4).setFfc true).setEnc ⟨1, 2, 3⟩ 4).params = (grey 4 4).params ∧ ∃ t, exec .ditherFs (grey 4 4) = .next t :=
  ⟨rfl, by unfold RasterFits; decide, rfl, rfl, rfl, rfl, completes_iff (by decide +kernel)⟩

theorem frame22_inv : Inv frame22 :=
  ⟨rfl, fun _ _ h => by (cases h), fun _ _ _ _ _ h => by (cases h), rfl, by decide, by decide, by decide, by decide, by decide,
    by unfold Params.Legal; decide⟩

theorem witness_EveryStepKeepsTheInvariant : Inv frame22 ∧ step frame22 = .next frame22 := ⟨frame22_inv, rfl⟩

end Sys2Proof.Tests
end

section
/-! PROOFS. The state family (spec/10_state.md): `FB_SIZE` and the parameters (R37), what `STATUS` can influence (R43), and the
pixel counters (R42, R30, R34). -/

namespace Sys2Proof.Machine

/-! ### The instruction that a `CMD` write selects -/

/-- The instructions that are a command of `CMD` (30_encoding.md R95, R96). -/
def isCommand : Instr → Bool
  | .nop | .encReset | .decReset | .decCheck | .ditherNaive | .ditherFs | .ditherJjn | .cmdReserved7 | .cmdReserved8F _ => true
  | _ => false

theorem isCommand_decodeCmd (v : Word) : isCommand (decodeCmd v) = true := by
  unfold decodeCmd
  generalize cmdCode v = k
  revert k
  decide

/-- A `CMD` write selects no instruction that is not a command. -/
theorem decodeCmd_ne {i : Instr} (hi : isCommand i = false) (v : Word) : decodeCmd v ≠ i := by
  rintro rfl
  simp [isCommand_decodeCmd] at hi

theorem decodeCmd_eq_encReset {v : Word} : decodeCmd v = .encReset ↔ v.toNat % 16 = 1 := by
  rw [← cmdCode_toNat]
  unfold decodeCmd
  generalize cmdCode v = k
  revert k
  decide

theorem decodeCmd_eq_decReset {v : Word} : decodeCmd v = .decReset ↔ v.toNat % 16 = 2 := by
  rw [← cmdCode_toNat]
  unfold decodeCmd
  generalize cmdCode v = k
  revert k
  decide

/-! ### The parameters -/

theorem Effect.params_eq {s t : State} {i : Instr} (h : Effect s i t) : t.params = s.params := by
  induction h with
  | command v t h ih => exact ih
  | _ => rfl

/-- Settles O13: the two accesses by what they mean, the parameters by the cases of `Effect`. -/
theorem fbSizeReadsAConstant : Obligations.FbSizeReadsAConstant := by
  unfold Obligations.FbSizeReadsAConstant
  exact ⟨fun v s => ⟨rfl, rfl⟩, fun i s t h => (exec_effect h).params_eq⟩

/-! ### The pixel counters -/

theorem isDecoderStep_iff {i : Instr} : isDecoderStep i = true ↔
    (∃ v, i = .decInW v) ∨ ∃ n, i = .usepal n ∨ i = .modr n ∨ i = .modg n ∨ i = .modb n := by
  cases i <;> simp [isDecoderStep]

/-- All that an instruction can do to `ENC_COUNT` (10_state.md R30). -/
theorem Effect.encCount_cases {s t : State} {i : Instr} (h : Effect s i t) :
    t.encCount = s.encCount ∨
    (t.encCount.toNat = s.encCount.toNat + 1 ∧ ∃ v, i = .encInW v) ∨
    (t.encCount = 0 ∧ (i = .encReset ∨ ∃ v : Word, i = .cmdW v ∧ v.toNat % 16 = 1)) := by
  induction h with
  | encode v c h => exact .inr (.inl ⟨count_succ h, v, rfl⟩)
  | encReset => exact .inr (.inr ⟨rfl, .inl rfl⟩)
  | command v t h ih =>
    obtain h0 | ⟨-, w, hw⟩ | ⟨h0, hr | ⟨w, hw, -⟩⟩ := ih
    · exact .inl h0
    · exact absurd hw (decodeCmd_ne rfl v)
    · exact .inr (.inr ⟨h0, .inr ⟨v, rfl, decodeCmd_eq_encReset.1 hr⟩⟩)
    · exact absurd hw (decodeCmd_ne rfl v)
  | _ => exact .inl rfl

/-- All that an instruction can do to `DEC_COUNT` (10_state.md R34). -/
theorem Effect.decCount_cases {s t : State} {i : Instr} (h : Effect s i t) :
    t.decCount = s.decCount ∨
    (t.decCount.toNat = s.decCount.toNat + 1 ∧ isDecoderStep i = true) ∨
    (t.decCount = 0 ∧ (i = .decReset ∨ ∃ v : Word, i = .cmdW v ∧ v.toNat % 16 = 2)) := by
  induction h with
  | decode i c hi h => exact .inr (.inl ⟨count_succ h, hi⟩)
  | decReset => exact .inr (.inr ⟨rfl, .inl rfl⟩)
  | command v t h ih =>
    obtain h0 | ⟨-, hd⟩ | ⟨h0, hr | ⟨w, hw, -⟩⟩ := ih
    · exact .inl h0
    · obtain ⟨w, hw⟩ | ⟨n, hw | hw | hw | hw⟩ := isDecoderStep_iff.1 hd <;> exact absurd hw (decodeCmd_ne rfl v)
    · exact .inr (.inr ⟨h0, .inr ⟨v, rfl, decodeCmd_eq_decReset.1 hr⟩⟩)
    · exact absurd hw (decodeCmd_ne rfl v)
  | _ => exact .inl rfl

/-- Settles O47, by the cases of `Effect`: a step advances its counter only below the frame size, which is far below 2^32. -/
theorem countersAdvanceByOneOrReset : Obligations.CountersAdvanceByOneOrReset := by
  unfold Obligations.CountersAdvanceByOneOrReset
  intro i s t h
  refine ⟨(exec_effect h).encCount_cases, ?_⟩
  rw [← isDecoderStep_iff]
  exact (exec_effect h).decCount_cases

/-! ### What depends on `STATUS` -/

/-- The two answers are one fault, or two next states that differ at most in `STATUS`. -/
inductive SameButStatus : Answer → Answer → Prop
  | next (t : State) (q : BitVec 4) : SameButStatus (.next t) (.next (t.setStatus q))
  | fault (f : Fault) : SameButStatus (.fault f) (.fault f)

theorem SameButStatus.of_next {a b : Answer} {t : State} (h : SameButStatus a b) (ha : a = .next t) :
    ∃ u, b = .next u ∧ u = t.setStatus u.status := by
  cases h <;> cases ha
  exact ⟨_, rfl, rfl⟩

theorem SameButStatus.of_fault {a b : Answer} {f : Fault} (h : SameButStatus a b) (ha : a = .fault f) : b = .fault f := by
  cases h <;> cases ha
  rfl

/-- A guard that does not read `STATUS`. -/
theorem SameButStatus.ite {c : Prop} [Decidable c] {a a' b b' : Answer} (h1 : SameButStatus a a') (h2 : SameButStatus b b') :
    SameButStatus (if c then a else b) (if c then a' else b') := by
  split
  · exact h1
  · exact h2

/-- A pass carries `STATUS` along and depends on it in no other way. -/
def CarriesStatus (pass : State → Except Fault State) : Prop :=
  ∀ (s : State) (q : BitVec 4), pass (s.setStatus q) = (pass s).map (fun t => t.setStatus q)

theorem carriesStatus_forEach {α : Type} {body : α → State → Except Fault State} (hb : ∀ a, CarriesStatus (body a))
    (as : List α) : CarriesStatus (forEach body as) := by
  induction as with
  | nil => intro s q; rfl
  | cons a as ih =>
    intro s q
    rw [forEach_cons, forEach_cons, hb a s q]
    cases body a s with
    | ok t => exact ih t q
    | error f => rfl

@[simp] theorem readPixel_setStatus (s : State) (q : BitVec 4) (x y : Int) :
    readPixel (s.setStatus q) x y = readPixel s x y := rfl

theorem carriesStatus_naivePixel (xy : Int × Int) : CarriesStatus (naivePixel xy) := by
  intro s q
  unfold naivePixel
  rw [readPixel_setStatus]
  cases readPixel s xy.1 xy.2 <;> rfl

theorem carriesStatus_naivePass : CarriesStatus naivePass := by
  intro s q
  unfold naivePass
  have h : forEach naivePixel
      (raster 0 (((s.setStatus q).width.toNat : Int) - 1) 0 (((s.setStatus q).height.toNat : Int) - 1))
      ((s.setStatus q).setDthErr ⟨0, 0, 0⟩) = _ :=
    carriesStatus_forEach carriesStatus_naivePixel _ (s.setDthErr ⟨0, 0, 0⟩) q
  rw [h, State.setStatus_width, State.setStatus_height]
  cases forEach naivePixel _ (s.setDthErr ⟨0, 0, 0⟩) <;> rfl

theorem carriesStatus_diffuseTap (divisor : Nat) (e : Rgb Int) (xy : Int × Int) (tap : Tap) :
    CarriesStatus (diffuseTap divisor e xy tap) := by
  intro s q
  unfold diffuseTap
  rw [readPixel_setStatus]
  cases readPixel s (xy.1 + tap.dx) (xy.2 + tap.dy) <;> rfl

theorem carriesStatus_kernelPixel (kernel : List Tap) (divisor : Nat) (xy : Int × Int) :
    CarriesStatus (kernelPixel kernel divisor xy) := by
  intro s q
  unfold kernelPixel
  rw [readPixel_setStatus]
  cases readPixel s xy.1 xy.2 with
  | ok o =>
    exact carriesStatus_forEach (carriesStatus_diffuseTap divisor (o.map channelError) xy) kernel
      (writePixel s xy.1 xy.2 (o.zipWith addClamp (o.map channelError))) q
  | error f => rfl

theorem carriesStatus_fsPass : CarriesStatus fsPass :=
  fun s q => carriesStatus_forEach (carriesStatus_kernelPixel kernelFs 16) _ s q

theorem carriesStatus_jjnPass : CarriesStatus jjnPass :=
  fun s q => carriesStatus_forEach (carriesStatus_kernelPixel kernelJjn 48) _ s q

theorem sameButStatus_ditherCommand {pass : State → Except Fault State} (hp : CarriesStatus pass) (s : State) (q : BitVec 4) :
    SameButStatus (ditherCommand pass s) (ditherCommand pass (s.setStatus q)) := by
  unfold ditherCommand
  rw [hp s q]
  refine .ite (.next _ _) ?_
  cases pass s with
  | ok t => exact .next t q
  | error f => exact .fault f

theorem sameButStatus_decodeStep (c : Color12) (s : State) (q : BitVec 4) :
    SameButStatus (.next (decodeStep c s)) (.next (decodeStep c (s.setStatus q))) := by
  unfold decodeStep
  rw [State.setStatus_decCount, frameSize_setStatus]
  split
  · exact .next _ (statusRaise .decOvf q)
  · exact .next _ q

theorem sameButStatus_execDecInW (v : Word) (s : State) (q : BitVec 4) :
    SameButStatus (execDecInW v s) (execDecInW v (s.setStatus q)) := by
  unfold execDecInW
  dsimp only
  split <;> exact sameButStatus_decodeStep _ s q

theorem sameButStatus_execFbR (n : BitVec 20) (s : State) (q : BitVec 4) :
    SameButStatus (execFbR n s) (execFbR n (s.setStatus q)) := by
  unfold execFbR
  rw [State.setStatus_mem]
  refine .ite ?_ (.next _ q)
  cases fbRead s.mem n.toNat with
  | some p => exact .next _ q
  | none => exact .fault _

/-- What an instruction other than the `STATUS` read and a `CMD` write answers does not depend on `STATUS` (10_state.md R43). -/
theorem sameButStatus_exec_of_ne {i : Instr} (hr : i ≠ .statusR) (hc : ∀ v, i ≠ .cmdW v) (s : State) (q : BitVec 4) :
    SameButStatus (exec i s) (exec i (s.setStatus q)) := by
  cases i
  case statusR => exact absurd rfl hr
  case cmdW v => exact absurd rfl (hc v)
  case usepal n => exact sameButStatus_decodeStep _ s q
  case modr n => exact sameButStatus_decodeStep _ s q
  case modg n => exact sameButStatus_decodeStep _ s q
  case modb n => exact sameButStatus_decodeStep _ s q
  case decInW v => exact sameButStatus_execDecInW v s q
  case ditherNaive => exact sameButStatus_ditherCommand carriesStatus_naivePass s q
  case ditherFs => exact sameButStatus_ditherCommand carriesStatus_fsPass s q
  case ditherJjn => exact sameButStatus_ditherCommand carriesStatus_jjnPass s q
  case fbR n => exact sameButStatus_execFbR n s q
  case encInW v => exact .ite (.next _ (statusRaise .encOvf q)) (.next _ q)
  case decCheck => exact .ite (.next _ (statusRaise .decLen q)) (.next _ q)
  case fbW n v => exact .ite (.next _ q) (.next _ q)
  case cmdReserved7 => exact .next _ (statusRaise .cmdErr q)
  case cmdReserved8F c => exact .next _ (statusRaise .cmdErr q)
  case statusW1C v => exact .next _ (statusClear v q)
  all_goals exact .next _ q

/-- What an instruction other than the `STATUS` read answers does not depend on `STATUS` (10_state.md R43). -/
theorem sameButStatus_exec {i : Instr} (hr : i ≠ .statusR) (s : State) (q : BitVec 4) :
    SameButStatus (exec i s) (exec i (s.setStatus q)) := by
  by_cases hc : ∃ v, i = .cmdW v
  · obtain ⟨v, rfl⟩ := hc
    rw [exec_cmdW, exec_cmdW]
    exact sameButStatus_exec_of_ne (decodeCmd_ne rfl v) (fun w => decodeCmd_ne rfl v) s q
  · exact sameButStatus_exec_of_ne hr (fun v hv => hc ⟨v, hv⟩) s q

/-- Settles O44: every arm but the `STATUS` read only carries `STATUS` along, a dither pass by induction on its pixels. -/
theorem noResultDependsOnStatus : Obligations.NoResultDependsOnStatus := by
  unfold Obligations.NoResultDependsOnStatus
  intro i s q hr
  have h := sameButStatus_exec hr s q
  exact ⟨fun t ht => h.of_next ht, fun f hf => h.of_fault hf⟩

end Sys2Proof.Machine
end

section
/-! PROOFS. The memory family (spec/20_memory.md): the accesses a step refuses (R62), the reserved space (R65), write-only and
read-only registers (R67), and the frame-buffer window beyond the capacity (R70). -/

namespace Sys2Proof.Machine

open Sys2Proof.Safety

/-! ### What a step does with the host's oldest access -/

theorem step_of_decode_ok {s : State} {a : Access} {rest : List HostEvent} {i : Instr} (hp : s.port = .access a :: rest)
    (hd : decode (.mmio a) = .ok i) : step s = exec i (s.setPort rest) := by
  rw [decode] at hd
  simp only [step, hp, hd]

theorem step_of_decode_error {s : State} {a : Access} {rest : List HostEvent} {e : DecodeReject}
    (hp : s.port = .access a :: rest) (hd : decode (.mmio a) = .error e) : step s = .refused (refusalOf e) := by
  rw [decode] at hd
  simp only [step, hp, hd]

theorem SameButStatus.ne_refused {a b : Answer} (h : SameButStatus a b) (r : Refusal) : a ≠ .refused r := by
  cases h <;> simp

/-- No instruction is refused: `sameButStatus_exec` finds every answer but the `STATUS` read's to be a state or a fault. -/
theorem exec_ne_refused (i : Instr) (s : State) (r : Refusal) : exec i s ≠ .refused r := by
  by_cases hr : i = .statusR
  · subst hr
    nofun
  · exact (sameButStatus_exec hr s s.status).ne_refused r

/-- A step refuses an access exactly when the decoder rejects it (20_memory.md R62). -/
theorem step_refused_iff {s : State} {a : Access} {rest : List HostEvent} (hp : s.port = .access a :: rest) :
    (∃ r, step s = .refused r) ↔ ∃ e, decode (.mmio a) = .error e := by
  cases hd : decode (.mmio a) with
  | error e => simp [step_of_decode_error hp hd]
  | ok i => simp [step_of_decode_ok hp hd, exec_ne_refused]

/-- The decoder rejects an access exactly when it is narrow or misaligned (20_memory.md R62). -/
theorem decode_error_iff {a : Access} {off : BitVec 23} {size : Nat} {v : Word}
    (ha : a = .read off size ∨ a = .write off size v) :
    (∃ e, decode (.mmio a) = .error e) ↔ size ≠ 4 ∨ off.toNat % 4 ≠ 0 := by
  have hreject : (∃ e, decode (.mmio a) = .error e) ↔ accessReject off size ≠ none := by
    rcases ha with rfl | rfl <;> simp only [decode, decodeAccess] <;> cases accessReject off size <;> simp
  rw [hreject, Ne, accessReject_eq_none, Decidable.not_and_iff_or_not]

/-- Settles O4: no instruction is refused, so a step refuses exactly what the decoder rejects. -/
theorem stepRefusesExactlyNarrowOrMisaligned : Obligations.StepRefusesExactlyNarrowOrMisaligned := by
  unfold Obligations.StepRefusesExactlyNarrowOrMisaligned
  rintro s rest off size v (hp | hp)
  · exact (step_refused_iff hp).trans (decode_error_iff (v := v) (.inl rfl))
  · exact (step_refused_iff hp).trans (decode_error_iff (.inr rfl))

/-! ### Which word an aligned offset names -/

/-- Every aligned offset of the register space is that of one of its words (20_memory.md R64). -/
theorem exists_eq_spaceOffset {off : BitVec 23} (h4 : off.toNat % 4 = 0) (hlt : off.toNat < 0x400000) :
    ∃ k, off = spaceOffset k := by
  refine ⟨BitVec.ofNat 20 (off.toNat / 4), BitVec.eq_of_toNat_eq ?_⟩
  rw [spaceOffset_toNat, BitVec.toNat_ofNat]
  omega

/-- Every aligned offset of the frame-buffer window is that of one of its words (20_memory.md R64, R69). -/
theorem exists_eq_fbOffset {off : BitVec 23} (h4 : off.toNat % 4 = 0) (hle : 0x400000 ≤ off.toNat) :
    ∃ n, off = fbOffset n := by
  have hoff := off.isLt
  refine ⟨BitVec.ofNat 20 ((off.toNat - 0x400000) / 4), BitVec.eq_of_toNat_eq ?_⟩
  rw [fbOffset_toNat, BitVec.toNat_ofNat]
  omega

/-! ### The reserved space -/

theorem exec_reservedR (k : BitVec 20) (s : State) : exec (.reservedR k) s = .next (returning s 0) := rfl

theorem exec_reservedW (k : BitVec 20) (v : Word) (s : State) : exec (.reservedW k v) s = .next s := rfl

/-- Settles O15: an aligned offset of the range is a word's from 0x20 on, which decodes to the reserved instructions. -/
theorem reservedSpaceReadsZeroAndIgnoresWrites : Obligations.ReservedSpaceReadsZeroAndIgnoresWrites := by
  unfold Obligations.ReservedSpaceReadsZeroAndIgnoresWrites
  refine ⟨fun off v s rest h4 hlo hhi => ?_, fun k v s => ⟨exec_reservedR k s, exec_reservedW k v s⟩⟩
  obtain ⟨k, rfl⟩ := exists_eq_spaceOffset h4 (by omega)
  have hk : 0x20 ≤ k.toNat := by
    rw [spaceOffset_toNat] at hlo
    omega
  exact ⟨fun hp => (step_of_decode_ok hp (decode_space_read hk)).trans (exec_reservedR k _),
    fun hp => (step_of_decode_ok hp (decode_space_write v hk)).trans (exec_reservedW k v _)⟩

/-! ### The frame-buffer window beyond the capacity -/

theorem exec_fbR_beyond {n : BitVec 20} {s : State} (h : s.params.fbPixels ≤ n.toNat) :
    exec (.fbR n) s = .next (returning s 0) := if_neg (Nat.not_lt.2 h)

theorem exec_fbW_beyond {n : BitVec 20} {s : State} (v : Word) (h : s.params.fbPixels ≤ n.toNat) :
    exec (.fbW n v) s = .next s := if_neg (Nat.not_lt.2 h)

/-- Settles O16: an aligned offset of the range is that of a word at or beyond the capacity. -/
theorem beyondCapacityReadsZeroAndIgnoresWrites : Obligations.BeyondCapacityReadsZeroAndIgnoresWrites := by
  unfold Obligations.BeyondCapacityReadsZeroAndIgnoresWrites
  refine ⟨fun n v s h => ⟨exec_fbR_beyond h, exec_fbW_beyond v h⟩, fun off v s rest h4 hlo => ?_⟩
  obtain ⟨n, rfl⟩ := exists_eq_fbOffset h4 (by omega)
  have hn : (s.setPort rest).params.fbPixels ≤ n.toNat := by
    rw [fbOffset_toNat] at hlo
    rw [State.setPort_params]
    omega
  exact ⟨fun hp => (step_of_decode_ok hp (decode_fb_read n)).trans (exec_fbR_beyond hn),
    fun hp => (step_of_decode_ok hp (decode_fb_write n v)).trans (exec_fbW_beyond v hn)⟩

/-! ### Write-only and read-only registers -/

/-- A `STATUS` write clears the bits that the low four bits of its data name (60_exceptions.md R256). -/
theorem statusClear_eq (v : Word) (q : BitVec 4) : statusClear v q = q &&& ~~~(BitVec.ofNat 4 v.toNat) := by
  have hlow : v.extractLsb' 0 4 = BitVec.ofNat 4 v.toNat := by
    rw [extract_eq_iff]
    simp
  rw [statusClear, hlow]

theorem exec_statusW1C (v : Word) (s : State) :
    exec (.statusW1C v) s = .next (s.setStatus (s.status &&& ~~~(BitVec.ofNat 4 v.toNat))) := by
  rw [← statusClear_eq]
  rfl

/-- Settles O14: the four reads and the eight writes by what each means, the `STATUS` write by the bits it clears. -/
theorem writeOnlyReadsZeroAndReadOnlyIgnoresWrites : Obligations.WriteOnlyReadsZeroAndReadOnlyIgnoresWrites := by
  unfold Obligations.WriteOnlyReadsZeroAndReadOnlyIgnoresWrites
  refine fun v s => ⟨?_, ?_, exec_statusW1C v s⟩
  · rintro i (rfl | rfl | rfl | rfl) <;> rfl
  · rintro i (rfl | rfl | rfl | rfl | rfl | rfl | rfl | rfl) <;> rfl

end Sys2Proof.Machine
end

section
/-! PROOFS. The encoding family (spec/30_encoding.md): the HAM6 words (R91, R92, R97) and the code of a `CMD` write (R95). -/

namespace Sys2Proof.Machine

/-! ### HAM6 words -/

/-- `{OP, payload}` as a number (30_encoding.md R91). -/
theorem encode6_eq_ofNat (op : Op) (p : BitVec 4) : encode6 op p = BitVec.ofNat 6 ((codeOf op).toNat * 16 + p.toNat) := by
  have hp := p.isLt
  have hop := (codeOf op).isLt
  apply BitVec.eq_of_toNat_eq
  rw [encode6, BitVec.toNat_append, BitVec.toNat_ofNat, ← Nat.shiftLeft_add_eq_or_of_lt hp, Nat.shiftLeft_eq]
  omega

theorem codeOf_opOf (c : BitVec 2) : codeOf (opOf c) = c := by
  revert c
  decide

/-- The two fields of a HAM6 word are all of it (30_encoding.md R91). -/
theorem encode6_decode6 (w : BitVec 6) : encode6 (decode6 w).1 (decode6 w).2 = w := by
  rw [decode6, encode6, codeOf_opOf]
  exact (BitVec.extractLsb'_append_extractLsb'_eq_extractLsb' rfl).trans BitVec.extractLsb'_eq_self

theorem ham6Instr_wellFormed (op : Op) (p : BitVec 4) : (ham6Instr op p).wellFormed = true := by
  cases op <;> rfl

theorem encode_ham6Instr (op : Op) (p : BitVec 4) : encode (ham6Instr op p) = .ham6 (encode6 op p) := by
  cases op <;> rfl

/-- A word given by its two fields as numbers decodes to the instruction of the operation (30_encoding.md R92). -/
theorem decode_ham6_ofNat (op : Op) (p : BitVec 4) :
    decode (.ham6 (BitVec.ofNat 6 ((codeOf op).toNat * 16 + p.toNat))) = .ok (ham6Instr op p) := by
  rw [← encode6_eq_ofNat, decode, decodeHam6_encode6]

/-- Settles O7: the four operations by their codes; a word is the encoding of its two fields. -/
theorem everyHam6WordIsLegal : Obligations.EveryHam6WordIsLegal := by
  unfold Obligations.EveryHam6WordIsLegal
  refine ⟨fun p => ⟨decode_ham6_ofNat .usePalette p, decode_ham6_ofNat .modifyRed p, decode_ham6_ofNat .modifyGreen p,
    decode_ham6_ofNat .modifyBlue p⟩, fun w => ⟨decodeHam6 w, rfl, ham6Instr_wellFormed _ _, ?_⟩⟩
  rw [decodeHam6, encode_ham6Instr, encode6_decode6]

/-! ### The code of a `CMD` write -/

theorem decodeCode_reserved {k : BitVec 4} (hk : 8 ≤ k.toNat) : decodeCode k = .cmdReserved8F k := by
  revert k
  decide

/-- Data whose value modulo 16 is the code `k` selects and performs the command of `k` (30_encoding.md R95). -/
theorem cmdWrite_performs {v : Word} {k : BitVec 4} (h : v.toNat % 16 = k.toNat) (s : State) :
    decode (.cmd v) = .ok (decodeCode k) ∧ exec (.cmdW v) s = exec (decodeCode k) s := by
  have hk : cmdCode v = k := BitVec.eq_of_toNat_eq ((cmdCode_toNat v).trans h)
  rw [exec_cmdW, decode, decodeCmd, hk]
  exact ⟨rfl, rfl⟩

/-- Settles O9: `cmdWrite_performs` at each code; from 8 on the code stays a variable. -/
theorem commandIsChosenByTheLowFourBits : Obligations.CommandIsChosenByTheLowFourBits := by
  unfold Obligations.CommandIsChosenByTheLowFourBits
  refine fun v s => ⟨rfl, fun h => cmdWrite_performs (k := 0) h s, fun h => cmdWrite_performs (k := 1) h s,
    fun h => cmdWrite_performs (k := 2) h s, fun h => cmdWrite_performs (k := 3) h s,
    fun h => cmdWrite_performs (k := 4) h s, fun h => cmdWrite_performs (k := 5) h s,
    fun h => cmdWrite_performs (k := 6) h s, fun h => cmdWrite_performs (k := 7) h s, fun h => ?_⟩
  have hcode : v.toNat % 16 = (BitVec.ofNat 4 v.toNat).toNat := (BitVec.toNat_ofNat v.toNat 4).symm
  rw [← decodeCode_reserved (hcode ▸ h)]
  exact cmdWrite_performs hcode s

end Sys2Proof.Machine
end

section
/-! PROOFS. The colour family (spec/40_color.md): quantizing and expanding (R120, R121, R125), the dither engine's quantizer (R123)
and the distance (R122, R124). -/

namespace Sys2Proof.Machine

open Sys2Proof.Safety

/-! ### Quantizing and expanding -/

theorem map_eq_self_iff {α : Type} (f : α → α) (t : Rgb α) : t.map f = t ↔ f t.r = t.r ∧ f t.g = t.g ∧ f t.b = t.b := by
  cases t
  simp [Rgb.map]

/-- An expanded channel is 17 times its number, so its high nibble is the channel again (40_color.md R125). -/
theorem highNibble_expand1 (v : BitVec 4) : (expand1 v).extractLsb' 4 4 = v := by
  have hv := v.isLt
  apply BitVec.eq_of_toNat_eq
  rw [highNibble_toNat, expand1_toNat]
  omega

theorem quantize_expand (c : Color12) : quantize (expand c) = c :=
  (map_eq_self_iff (fun v => (expand1 v).extractLsb' 4 4) c).2
    ⟨highNibble_expand1 c.r, highNibble_expand1 c.g, highNibble_expand1 c.b⟩

/-- `q8` is one channel of `expand` after `quantize` (40_color.md R123). -/
theorem expand_quantize (p : Rgb8) : expand (quantize p) = p.map q8 := rfl

theorem q8_eq_self_iff (v : BitVec 8) : q8 v = v ↔ v.toNat % 17 = 0 := by
  have hv := v.isLt
  rw [← BitVec.toNat_inj, q8_toNat]
  omega

/-- Settles O20: channel by channel, by `highNibble_expand1` one way and the fixed points of `q8` the other. -/
theorem quantizeAndExpandRoundTrip : Obligations.QuantizeAndExpandRoundTrip := by
  unfold Obligations.QuantizeAndExpandRoundTrip
  refine ⟨quantize_expand, fun p => ?_⟩
  rw [expand_quantize, map_eq_self_iff, q8_eq_self_iff, q8_eq_self_iff, q8_eq_self_iff]

/-! ### The dither engine's quantizer -/

/-- `v` is 16 times its high nibble plus its low one, `q8 v` 17 times the high one (40_color.md R123). -/
theorem q8_sub_self (v : BitVec 8) : ((q8 v).toNat : Int) - v.toNat = (v.toNat / 16 : Nat) - (v.toNat % 16 : Nat) := by
  rw [q8_toNat]
  omega

/-- Settles O21: the corner cases are `q8_sub_self` with two nibbles of at most 15. -/
theorem ditherQuantizerValues : Obligations.DitherQuantizerValues := by
  unfold Obligations.DitherQuantizerValues
  intro v
  have hdiff := q8_sub_self v
  have hhigh : v.toNat / 16 ≤ 15 := by have := v.isLt; omega
  have hlow : v.toNat % 16 ≤ 15 := by omega
  exact ⟨q8_toNat v, q8_eq_self_iff v, hdiff, by omega, by omega, by omega⟩

/-! ### The distance -/

/-- The model's square and the integer square of a channel difference agree (40_color.md R122). -/
theorem sqDiff_eq_chanSq (x y : BitVec 4) : (sqDiff x y : Int) = chanSq x y := by
  rw [sqDiff_int, chanSq, sq]

theorem distance_eq_colourDist (a b : Color12) : (distance a b : Int) = colourDist a b := by
  simp only [distance, colourDist, Nat.cast_add, sqDiff_eq_chanSq]

theorem colourDist_comm (a b : Color12) : colourDist a b = colourDist b a := by
  simp only [colourDist, chanSq, sub_sq_comm]

theorem distance_comm (a b : Color12) : distance a b = distance b a := by
  have h := colourDist_comm a b
  rw [← distance_eq_colourDist, ← distance_eq_colourDist] at h
  exact_mod_cast h

/-- Three channels, each off by at most 15 (40_color.md R122). -/
theorem distance_le (a b : Color12) : distance a b ≤ 675 := by
  have hr := sqDiff_le a.r b.r
  have hg := sqDiff_le a.g b.g
  have hb := sqDiff_le a.b b.b
  unfold distance
  omega

theorem distance_eq_zero_iff (a b : Color12) : distance a b = 0 ↔ a = b := by
  cases a
  cases b
  simp only [distance, Nat.add_eq_zero_iff, sqDiff_eq_zero, Rgb.mk.injEq, and_assoc]

/-- Settles O22: the four facts above. -/
theorem distanceIsSymmetricBoundedAndZeroOnlyOnEqual : Obligations.DistanceIsSymmetricBoundedAndZeroOnlyOnEqual := by
  unfold Obligations.DistanceIsSymmetricBoundedAndZeroOnlyOnEqual
  exact fun a b => ⟨distance_eq_colourDist a b, distance_comm a b, distance_le a b, distance_eq_zero_iff a b⟩

end Sys2Proof.Machine
end

section
/-! PROOFS. The palette family (spec/41_palette.md): the nearest entry (R142). -/

namespace Sys2Proof.Machine

open Sys2Proof.Safety

/-! ### The nearest entry -/

theorem nearest_snd_eq_colourDist (pal : Vector Color12 16) (t : Color12) :
    ((nearest pal t).2 : Int) = colourDist (palGet pal (nearest pal t).1) t := by
  rw [← distance_eq_colourDist, (nearest_spec pal t).1]

/-- The scan's answer is a least nearest entry, on the integer distance (41_palette.md R142). -/
theorem isNearest_nearest (pal : Vector Color12 16) (t : Color12) : IsNearest pal t (nearest pal t).1 := by
  intro j
  obtain ⟨-, hmin⟩ := nearest_spec pal t
  rw [← nearest_snd_eq_colourDist, ← distance_eq_colourDist]
  exact_mod_cast hmin j

/-- A nearest entry before `i` would have to be strictly farther than `i`. -/
theorem toNat_le_of_isNearest {pal : Vector Color12 16} {t : Color12} {i j : BitVec 4} (hi : IsNearest pal t i)
    (hj : IsNearest pal t j) : i.toNat ≤ j.toNat :=
  not_lt.1 fun hlt => ((hi j).2 hlt).not_ge (hj i).1

theorem isNearest_unique {pal : Vector Color12 16} {t : Color12} {i j : BitVec 4} (hi : IsNearest pal t i)
    (hj : IsNearest pal t j) : i = j :=
  BitVec.eq_of_toNat_eq (le_antisymm (toNat_le_of_isNearest hi hj) (toNat_le_of_isNearest hj hi))

/-- Settles O25: the scan finds a least nearest entry and its distance, and two such entries each lie at or before the other. -/
theorem nearestIsTheLeastIndexAtTheSmallestDistance : Obligations.NearestIsTheLeastIndexAtTheSmallestDistance := by
  unfold Obligations.NearestIsTheLeastIndexAtTheSmallestDistance
  intro pal t
  have hnearest := isNearest_nearest pal t
  exact ⟨hnearest, nearest_snd_eq_colourDist pal t, fun i hi => isNearest_unique hi hnearest⟩

end Sys2Proof.Machine
end

section
/-! PROOFS. The encoder family (spec/42_encoder.md): the reset of the encoder (R166). -/

namespace Sys2Proof.Machine

/-! ### `ENC_RESET` -/

theorem exec_encReset (s : State) : exec .encReset s = .next (s.setEnc ⟨0, 0, 0⟩ 0) := rfl

/-- Settles O31: what the command leaves; a `CMD` write with code 1 performs it, by `cmdWrite_performs`. -/
theorem encResetClearsPreviousColourAndCount : Obligations.EncResetClearsPreviousColourAndCount := by
  unfold Obligations.EncResetClearsPreviousColourAndCount
  intro s
  refine ⟨exec_encReset s, fun v h => ?_⟩
  obtain ⟨-, hexec⟩ := cmdWrite_performs (k := 1) h s
  exact hexec.trans (exec_encReset s)

end Sys2Proof.Machine
end

section
/-! PROOFS. The decoder family (spec/43_decoder.md): the HAM6 instructions below the frame size (R192 to R196), the reset of the
decoder (R197), the check of its count (R198), and the invariant that every step keeps. -/

namespace Sys2Proof.Machine

open Sys2Proof.Safety

/-! ### What a step can do -/

/-- All that a step that completes can do: nothing, the block reset, or the instruction of the host's oldest access
(20_memory.md R60, R61; 60_exceptions.md R267). -/
theorem step_cases {s t : State} (h : step s = .next t) :
    (s.port = [] ∧ t = s) ∨
    (∃ rest, s.port = .blockReset :: rest ∧ t = blockReset (s.setPort rest)) ∨
    (∃ a rest i, s.port = .access a :: rest ∧ decodeAccess a = .ok i ∧ exec i (s.setPort rest) = .next t) := by
  unfold step at h
  split at h
  next hp =>
    cases h
    exact .inl ⟨hp, rfl⟩
  next rest hp =>
    cases h
    exact .inr (.inl ⟨rest, hp, rfl⟩)
  next a rest hp =>
    split at h
    next => cases h
    next i hd => exact .inr (.inr ⟨a, rest, i, hp, hd, h⟩)

/-! ### The invariant on the frame buffer -/

theorem exists_read_of_fbRead {m : Memory} {n : Nat} {p : Rgb8} (h : fbRead m n = some p) {a : Nat} (h1 : fbAddr n ≤ a)
    (h2 : a ≤ fbAddr n + 2) : ∃ b, m.read a = some b := by
  obtain ⟨hr, hg, hb⟩ := fbRead_eq_some.1 h
  obtain rfl | rfl | rfl : a = fbAddr n + 2 ∨ a = fbAddr n + 1 ∨ a = fbAddr n := by omega
  · exact ⟨_, hr⟩
  · exact ⟨_, hg⟩
  · exact ⟨_, hb⟩

/-- A pass lists no new byte: it writes only words that were written before. -/
theorem PassFrame.exists_read {R : Nat → Prop} {s t : State} (hf : PassFrame R s t) {a : Nat} {b : Byte}
    (hb : t.mem.read a = some b) : ∃ b', s.mem.read a = some b' := by
  by_cases hin : ∃ n p, fbRead s.mem n = some p ∧ fbAddr n ≤ a ∧ a ≤ fbAddr n + 2
  · obtain ⟨n, p, hp, h1, h2⟩ := hin
    exact exists_read_of_fbRead hp h1 h2
  · refine ⟨b, (hf.bytes a fun n _ hn => ?_).symm.trans hb⟩
    obtain ⟨p, hp⟩ := Option.isSome_iff_exists.1 hn
    by_contra hout
    exact hin ⟨n, p, hp, by omega, by omega⟩

theorem PassFrame.written_of_written {R : Nat → Prop} {s t : State} (hf : PassFrame R s t) {n : Nat} (h : Written s n) :
    Written t n := by
  rw [Written, ← Option.isSome_iff_exists] at h ⊢
  rwa [hf.written]

/-- A dither pass that leaves no error term keeps the invariant. -/
theorem inv_of_passFrame {R : Nat → Prop} {s : State} {m : Memory} {e : Rgb (BitVec 10)} (h : Inv s)
    (hf : PassFrame R s ((s.setMem m).setDthErr e)) (he : e = ⟨0, 0, 0⟩) : Inv ((s.setMem m).setDthErr e) :=
  { h with
    memCanonical := hf.wf h.memCanonical
    memInFrameBuffer := fun a b hb => by
      obtain ⟨b', hb'⟩ := hf.exists_read hb
      exact h.memInFrameBuffer a b' hb'
    wordsWhole := fun n a b h1 h2 hb => by
      obtain ⟨b', hb'⟩ := hf.exists_read hb
      exact hf.written_of_written (h.wordsWhole n a b' h1 h2 hb')
    errIdle := he }

/-- A byte outside the word that a write sets is as before. -/
theorem read_of_fbWrite_read {m : Memory} {n : Nat} {p : Rgb8} {a : Nat} {b : Byte} (hb : (fbWrite m n p).read a = some b)
    (hout : ¬ (fbAddr n ≤ a ∧ a ≤ fbAddr n + 2)) : m.read a = some b :=
  (Memory.read_fbWrite_outside m n p (by omega)).symm.trans hb

/-- A host write below the capacity keeps the invariant (20_memory.md R69). -/
theorem inv_setMem_fbWrite {s : State} {n : Nat} (h : Inv s) (hn : n < s.params.fbPixels) (p : Rgb8) :
    Inv (s.setMem (fbWrite s.mem n p)) :=
  { h with
    memCanonical := wf_fbWrite n p h.memCanonical
    memInFrameBuffer := fun a b hb => by
      by_cases hin : fbAddr n ≤ a ∧ a ≤ fbAddr n + 2
      · exact ⟨n, hn, hin⟩
      · exact h.memInFrameBuffer a b (read_of_fbWrite_read hb hin)
    wordsWhole := fun k a b h1 h2 hb => by
      by_cases hk : k = n
      · subst hk
        exact ⟨p, fbRead_fbWrite_same s.mem k p⟩
      · have hout : ¬ (fbAddr n ≤ a ∧ a ≤ fbAddr n + 2) := by
          unfold fbAddr at *
          omega
        obtain ⟨q, hq⟩ := h.wordsWhole k a b h1 h2 (read_of_fbWrite_read hb hout)
        exact ⟨q, (fbRead_fbWrite_ne s.mem p hk).trans hq⟩ }

/-! ### The invariant on the registers -/

theorem packEncOut_dist {d : Nat} (w : BitVec 6) (h : d < 2 ^ 10) : (packEncOut d w).toNat / 64 = d := by
  have hw := w.isLt
  rw [packEncOut_toNat d w h]
  omega

theorem packLookupOut_dist {d : Nat} (i : BitVec 4) (h : d < 2 ^ 10) : (packLookupOut d i).toNat / 16 = d := by
  have hi := i.isLt
  rw [packLookupOut_toNat d i h]
  omega

/-- A counter that a step advances is still at most the largest frame (10_state.md R26). -/
theorem count_succ_le {s : State} {c : BitVec 32} (h : c.toNat < frameSize s) : (c + 1).toNat ≤ 4294836225 := by
  have hframe := frameSize_le s
  rw [count_succ h]
  omega

theorem inv_encodeUpdate {s : State} (h : Inv s) (c : Color12) (hlt : s.encCount.toNat < frameSize s) :
    Inv (encodeUpdate (chooseCandidate s c) s) := by
  have hdist := chooseCandidate_dist s c
  have hle := distance_le (chooseCandidate s c).col c
  exact
    { h with
      encDist := (packEncOut_dist _ (by omega)).trans_le (hdist.trans_le hle)
      encCountBound := count_succ_le hlt }

theorem inv_setLookupOut {s : State} (h : Inv s) (c : Color12) :
    Inv (s.setLookupOut (packLookupOut (nearest s.pal c).2 (nearest s.pal c).1)) := by
  obtain ⟨hdist, -⟩ := nearest_spec s.pal c
  exact
    { h with
      lookupDist := (packLookupOut_dist _ (nearest_dist_lt s.pal c)).trans_le (hdist.trans_le (distance_le _ c)) }

theorem expand1_mod_17 (v : BitVec 4) : (expand1 v).toNat % 17 = 0 := by
  rw [expand1_toNat, Nat.mul_mod_right]

theorem inv_decodeUpdate {s : State} (h : Inv s) (c : Color12) (hlt : s.decCount.toNat < frameSize s) :
    Inv (decodeUpdate c s) :=
  { h with
    decCountBound := count_succ_le hlt
    decOutExpanded := ⟨expand1_mod_17 c.r, expand1_mod_17 c.g, expand1_mod_17 c.b⟩ }

/-- The invariant holds right after a reset with a legal capacity (70_reset_and_hazards.md R280). -/
theorem inv_afterReset {p : Params} (hp : p.Legal) (port : List HostEvent) : Inv (State.afterReset p port) where
  memCanonical := rfl
  memInFrameBuffer := nofun
  wordsWhole := nofun
  errIdle := rfl
  encDist := by simp
  lookupDist := by simp
  encCountBound := Nat.zero_le _
  decCountBound := Nat.zero_le _
  decOutExpanded := ⟨rfl, rfl, rfl⟩
  paramsLegal := hp

/-! ### Every step keeps the invariant -/

/-- Every instruction that completes keeps the invariant: the cases left to the last line write no field it speaks of. -/
theorem Effect.inv {s t : State} {i : Instr} (he : Effect s i t) (h : Inv s) : Inv t := by
  induction he with
  | lookup v c => exact inv_setLookupOut h c
  | frameBuffer n v p hn => exact inv_setMem_fbWrite h hn p
  | encode v c hlt => exact inv_encodeUpdate h c hlt
  | encReset => exact { h with encCountBound := Nat.zero_le _ }
  | decode i c hi hlt => exact inv_decodeUpdate h c hlt
  | decReset => exact { h with decCountBound := Nat.zero_le _ }
  | dither i m e hi hfit hf he =>
    obtain he | ⟨-, he⟩ := he
    · exact inv_of_passFrame h hf (he.trans h.errIdle)
    · exact inv_of_passFrame h hf he
  | command v t he ih => exact ih
  | _ => exact { h with }

/-- Settles O60: by the cases of a step; an instruction by the cases of `Effect`. -/
theorem everyStepKeepsTheInvariant : Obligations.EveryStepKeepsTheInvariant := by
  unfold Obligations.EveryStepKeepsTheInvariant
  intro s t h hstep
  obtain ⟨-, rfl⟩ | ⟨rest, -, rfl⟩ | ⟨a, rest, i, -, -, hexec⟩ := step_cases hstep
  · exact h
  · exact inv_afterReset h.paramsLegal rest
  · exact (exec_effect hexec).inv { h with }

/-! ### The HAM6 instructions below the frame size -/

theorem expand1_eq_ofNat (v : BitVec 4) : expand1 v = BitVec.ofNat 8 (17 * v.toNat) := by
  rw [← expand1_toNat, BitVec.ofNat_toNat, BitVec.setWidth_eq]

/-- The model's expansion and the spec's multiple of 17 agree (40_color.md R121). -/
theorem expand_eq_expanded (c : Color12) : expand c = expanded c := by
  simp only [expand, Rgb.map, expanded, expand1_eq_ofNat]

theorem add_one_eq_ofNat (c : BitVec 32) : c + 1 = BitVec.ofNat 32 (c.toNat + 1) := by
  rw [BitVec.ofNat_add, BitVec.ofNat_toNat, BitVec.setWidth_eq]
  rfl

/-- The update of a decoder step (43_decoder.md R196). -/
theorem decodeUpdate_eq_decoded (c : Color12) (s : State) : decodeUpdate c s = decoded s c := by
  rw [decodeUpdate, expand_eq_expanded, add_one_eq_ofNat]
  rfl

theorem decodeStep_of_lt {s : State} (h : s.decCount.toNat < s.width.toNat * s.height.toNat) (c : Color12) :
    decodeStep c s = decoded s c := by
  obtain ⟨hle, -⟩ | ⟨-, hstep⟩ := decodeStep_cases c s
  · exact absurd h hle.not_gt
  · exact hstep.trans (decodeUpdate_eq_decoded c s)

/-- Settles O33: each instruction is a decoder step with its colour, which below the frame size is the update of R196. -/
theorem ham6InstructionsReconstructTheirColour : Obligations.Ham6InstructionsReconstructTheirColour := by
  unfold Obligations.Ham6InstructionsReconstructTheirColour
  intro n s h
  have hstep (c : Color12) : (.next (decodeStep c s) : Answer) = .next (decoded s c) :=
    congrArg Host.Outcome.next (decodeStep_of_lt h c)
  exact ⟨hstep _, hstep _, hstep _, hstep _⟩

/-! ### What the HAM6 instructions read -/

/-- Settles O38: by O33 in both states, whose reconstructed colours are the same. -/
theorem modifyWordsDoNotReadThePalette : Obligations.ModifyWordsDoNotReadThePalette := by
  unfold Obligations.ModifyWordsDoNotReadThePalette
  intro s s' n h
  obtain ⟨husepal, hmodr, hmodg, hmodb⟩ := ham6InstructionsReconstructTheirColour n s h
  constructor
  · rintro i q rfl hi
    obtain ⟨-, hmodr', hmodg', hmodb'⟩ := ham6InstructionsReconstructTheirColour n { s with pal := q } h
    obtain rfl | rfl | rfl := hi
    · exact ⟨_, hmodr, hmodr'⟩
    · exact ⟨_, hmodg, hmodg'⟩
    · exact ⟨_, hmodb, hmodb'⟩
  · rintro q p rfl hentry
    obtain ⟨husepal', -⟩ := ham6InstructionsReconstructTheirColour n { s with pal := q, decPrev := p } h
    refine ⟨_, husepal, ?_⟩
    rw [husepal', hentry]
    rfl

/-! ### `DEC_RESET` and `DEC_CHECK` -/

theorem exec_decReset (s : State) : exec .decReset s = .next (s.setDec ⟨0, 0, 0⟩ 0) := rfl

/-- Settles O36: what the command leaves; a `CMD` write with code 2 performs it, by `cmdWrite_performs`. -/
theorem decResetClearsPreviousColourAndCount : Obligations.DecResetClearsPreviousColourAndCount := by
  unfold Obligations.DecResetClearsPreviousColourAndCount
  intro s
  refine ⟨exec_decReset s, fun v h => ?_⟩
  obtain ⟨-, hexec⟩ := cmdWrite_performs (k := 2) h s
  exact hexec.trans (exec_decReset s)

/-- The two outcomes of `DEC_CHECK` (43_decoder.md R198, 60_exceptions.md R253). -/
theorem exec_decCheck (s : State) :
    exec .decCheck s = .next (if s.decCount.toNat = frameSize s then s else raiseError .decLen s) :=
  (ite_not _ _ _).trans (apply_ite Host.Outcome.next _ _ _).symm

/-- Settles O37: the two outcomes of the check; a `CMD` write with code 3 performs it, by `cmdWrite_performs`. -/
theorem decCheckComparesCountWithFrameSize : Obligations.DecCheckComparesCountWithFrameSize := by
  unfold Obligations.DecCheckComparesCountWithFrameSize
  refine fun s => ⟨exec_decCheck s, fun v h => ?_⟩
  obtain ⟨-, hexec⟩ := cmdWrite_performs (k := 3) h s
  exact hexec

end Sys2Proof.Machine
end

section
/-! PROOFS. The dither family (spec/44_dither.md): the diffusion division (R222) and which instructions change which part of the
state (R232). -/

namespace Sys2Proof.Machine

open Sys2Proof.Safety

/-! ### The diffusion division -/

/-- The model's division is the spec's, written on Euclidean quotients (44_dither.md R222). -/
theorem diffDiv_eq_divInt (mode : DiffDiv) (a : Int) (d : Nat) : diffDiv mode a d = divInt mode a d := by
  cases mode with
  | floor => exact Int.fdiv_eq_ediv_of_nonneg a (Int.natCast_nonneg d)
  | trunc =>
    simp only [diffDiv, divInt]
    split
    next h => exact Int.tdiv_eq_ediv_of_nonneg h
    next h => rw [← Int.tdiv_eq_ediv_of_nonneg (by omega), Int.neg_tdiv, neg_neg]

theorem diffDiv_trunc_of_nonneg {a : Int} (h : 0 ≤ a) (d : Nat) : diffDiv .trunc a d = a / d :=
  Int.tdiv_eq_ediv_of_nonneg h

theorem diffDiv_trunc_of_nonpos {a : Int} (h : a ≤ 0) (d : Nat) : diffDiv .trunc a d = -(-a / d) := by
  rw [← diffDiv_trunc_of_nonneg (by omega), diffDiv, diffDiv, Int.neg_tdiv, neg_neg]

/-- Settles O23: each quotient is a Euclidean one, of `a` or, negated, of `-a`. -/
theorem diffusionDivisionRounds : Obligations.DiffusionDivisionRounds := by
  unfold Obligations.DiffusionDivisionRounds
  intro a d hd
  have hd : (0 : Int) < d := by exact_mod_cast hd
  have hle (b : Int) : b / d * d ≤ b := Int.ediv_mul_le b hd.ne'
  have hlt (b : Int) : b < (b / d + 1) * d := Int.lt_ediv_add_one_mul_self b hd
  refine ⟨?_, fun ha => ?_, fun ha => ?_⟩
  · rw [diffDiv_eq_divInt]
    exact ⟨hle a, hlt a⟩
  · rw [diffDiv_trunc_of_nonneg ha]
    exact ⟨Int.ediv_nonneg ha hd.le, hle a, hlt a⟩
  · rw [diffDiv_trunc_of_nonpos ha]
    have hq : 0 ≤ -a / d := Int.ediv_nonneg (by omega) hd.le
    have hle := hle (-a)
    have hlt := hlt (-a)
    exact ⟨by omega, by linarith, by linarith⟩

/-! ### Which instructions change which state -/

theorem decodeCmd_eq_ditherNaive {v : Word} : decodeCmd v = .ditherNaive ↔ v.toNat % 16 = 4 := by
  rw [← cmdCode_toNat]
  unfold decodeCmd
  generalize cmdCode v = k
  revert k
  decide

/-- A `CMD` write is a dither command exactly when the command it selects is one. -/
theorem isDither_decodeCmd (v : Word) : isDither (decodeCmd v) = isDither (.cmdW v) := by
  simp only [isDither, isDitherCode, ← cmdCode_toNat]
  unfold decodeCmd
  generalize cmdCode v = k
  revert k
  decide

section
variable {s t : State} {i : Instr}

theorem Effect.port_eq (h : Effect s i t) : t.port = s.port := by
  induction h with
  | command v t h ih => exact ih
  | _ => rfl

theorem Effect.ffc_cases (h : Effect s i t) : t.ffc = s.ffc ∨ ∃ v, i = .ctrlW v := by
  induction h with
  | ctrl v b => exact .inr ⟨v, rfl⟩
  | command v t h ih => exact .inl (ih.resolve_right fun ⟨_, hw⟩ => decodeCmd_ne rfl v hw)
  | _ => exact .inl rfl

theorem Effect.width_cases (h : Effect s i t) : t.width = s.width ∨ ∃ v, i = .widthW v := by
  induction h with
  | width v w => exact .inr ⟨v, rfl⟩
  | command v t h ih => exact .inl (ih.resolve_right fun ⟨_, hw⟩ => decodeCmd_ne rfl v hw)
  | _ => exact .inl rfl

theorem Effect.height_cases (h : Effect s i t) : t.height = s.height ∨ ∃ v, i = .heightW v := by
  induction h with
  | height v w => exact .inr ⟨v, rfl⟩
  | command v t h ih => exact .inl (ih.resolve_right fun ⟨_, hw⟩ => decodeCmd_ne rfl v hw)
  | _ => exact .inl rfl

theorem Effect.pal_cases (h : Effect s i t) : t.pal = s.pal ∨ ∃ k v, i = .palW k v := by
  induction h with
  | palette k v c => exact .inr ⟨k, v, rfl⟩
  | command v t h ih => exact .inl (ih.resolve_right fun ⟨_, _, hw⟩ => decodeCmd_ne rfl v hw)
  | _ => exact .inl rfl

theorem Effect.lookupOut_cases (h : Effect s i t) : t.lookupOut = s.lookupOut ∨ ∃ v, i = .lookupW v := by
  induction h with
  | lookup v c => exact .inr ⟨v, rfl⟩
  | command v t h ih => exact .inl (ih.resolve_right fun ⟨_, hw⟩ => decodeCmd_ne rfl v hw)
  | _ => exact .inl rfl

theorem Effect.encOut_cases (h : Effect s i t) : t.encOut = s.encOut ∨ ∃ v, i = .encInW v := by
  induction h with
  | encode v c h => exact .inr ⟨v, rfl⟩
  | command v t h ih => exact .inl (ih.resolve_right fun ⟨_, hw⟩ => decodeCmd_ne rfl v hw)
  | _ => exact .inl rfl

theorem Effect.enc_cases (h : Effect s i t) : (t.encPrev = s.encPrev ∧ t.encCount = s.encCount) ∨
    (∃ v, i = .encInW v) ∨ i = .encReset ∨ ∃ v : Word, i = .cmdW v ∧ v.toNat % 16 = 1 := by
  induction h with
  | encode v c h => exact .inr (.inl ⟨v, rfl⟩)
  | encReset => exact .inr (.inr (.inl rfl))
  | command v t h ih =>
    obtain heq | ⟨w, hw⟩ | hr | ⟨w, hw, -⟩ := ih
    · exact .inl heq
    · exact absurd hw (decodeCmd_ne rfl v)
    · exact .inr (.inr (.inr ⟨v, rfl, decodeCmd_eq_encReset.1 hr⟩))
    · exact absurd hw (decodeCmd_ne rfl v)
  | _ => exact .inl ⟨rfl, rfl⟩

/-- A `CMD` write selects no decoder step. -/
theorem isDecoderStep_decodeCmd (v : Word) : isDecoderStep (decodeCmd v) ≠ true := by
  intro hd
  obtain ⟨w, hw⟩ | ⟨n, hw | hw | hw | hw⟩ := isDecoderStep_iff.1 hd <;> exact decodeCmd_ne rfl v hw

theorem Effect.decOut_cases (h : Effect s i t) : t.decOut = s.decOut ∨ isDecoderStep i = true := by
  induction h with
  | decode i c hi h => exact .inr hi
  | command v t h ih => exact .inl (ih.resolve_right (isDecoderStep_decodeCmd v))
  | _ => exact .inl rfl

theorem Effect.dec_cases (h : Effect s i t) : (t.decPrev = s.decPrev ∧ t.decCount = s.decCount) ∨
    isDecoderStep i = true ∨ i = .decReset ∨ ∃ v : Word, i = .cmdW v ∧ v.toNat % 16 = 2 := by
  induction h with
  | decode i c hi h => exact .inr (.inl hi)
  | decReset => exact .inr (.inr (.inl rfl))
  | command v t h ih =>
    obtain heq | hd | hr | ⟨w, hw, -⟩ := ih
    · exact .inl heq
    · exact absurd hd (isDecoderStep_decodeCmd v)
    · exact .inr (.inr (.inr ⟨v, rfl, decodeCmd_eq_decReset.1 hr⟩))
    · exact absurd hw (decodeCmd_ne rfl v)
  | _ => exact .inl ⟨rfl, rfl⟩

theorem Effect.mem_cases (h : Effect s i t) : t.mem = s.mem ∨ (∃ n v, i = .fbW n v) ∨ isDither i = true := by
  induction h with
  | frameBuffer n v p h => exact .inr (.inl ⟨n, v, rfl⟩)
  | dither i m e hi hfit hf he => exact .inr (.inr hi)
  | command v t h ih =>
    obtain heq | ⟨n, w, hw⟩ | hd := ih
    · exact .inl heq
    · exact absurd hw (decodeCmd_ne rfl v)
    · exact .inr (.inr ((isDither_decodeCmd v).symm.trans hd))
  | _ => exact .inl rfl

theorem Effect.dthErr_cases (h : Effect s i t) :
    t.dthErr = s.dthErr ∨ i = .ditherNaive ∨ ∃ v : Word, i = .cmdW v ∧ v.toNat % 16 = 4 := by
  induction h with
  | dither i m e hi hfit hf he => exact he.imp_right fun ⟨hn, _⟩ => .inl hn
  | command v t h ih =>
    obtain heq | hn | ⟨w, hw, -⟩ := ih
    · exact .inl heq
    · exact .inr (.inr ⟨v, rfl, decodeCmd_eq_ditherNaive.1 hn⟩)
    · exact absurd hw (decodeCmd_ne rfl v)
  | _ => exact .inl rfl

/-- A `CMD` write selects no host read. -/
theorem isHostRead_decodeCmd (v : Word) : isHostRead (decodeCmd v) ≠ true := by
  unfold decodeCmd
  generalize cmdCode v = k
  revert k
  decide

theorem Effect.readData_cases (h : Effect s i t) : t.readData = s.readData ∨ isHostRead i = true := by
  induction h with
  | read i v h => exact .inr h
  | command v t h ih => exact .inl (ih.resolve_right (isHostRead_decodeCmd v))
  | _ => exact .inl rfl

end

/-- Settles O46: each part of the state by the cases of `Effect`. -/
theorem onlyItsOwnInstructionsChangeEachUnit : Obligations.OnlyItsOwnInstructionsChangeEachUnit := by
  unfold Obligations.OnlyItsOwnInstructionsChangeEachUnit
  intro i s t hexec
  have h := exec_effect hexec
  exact ⟨h.port_eq, h.params_eq, h.ffc_cases.resolve_left, h.width_cases.resolve_left, h.height_cases.resolve_left,
    h.pal_cases.resolve_left, h.lookupOut_cases.resolve_left, h.encOut_cases.resolve_left,
    fun hne => h.enc_cases.resolve_left (not_and_or.2 hne),
    fun hne => isDecoderStep_iff.1 (h.decOut_cases.resolve_left hne),
    fun hne => or_assoc.1 ((h.dec_cases.resolve_left (not_and_or.2 hne)).imp_left isDecoderStep_iff.1),
    h.mem_cases.resolve_left, h.dthErr_cases.resolve_left, h.readData_cases.resolve_left⟩

end Sys2Proof.Machine
end

section
/-! PROOFS. The dither family (spec/44_dither.md): the pixels that a kernel pass touches (R224, R226, R229), what a command that
fits answers (R220), empty ranges (R228), what a pass leaves unchanged (R229, R232), and when a kernel pass faults
(70_reset_and_hazards.md R288). -/

namespace Sys2Proof.Machine

open Sys2Proof.Safety

/-! ### The pixels of the raster -/

/-- `(x, y)` is a pixel of the current raster (44_dither.md R220). -/
def InRaster (s : State) (x y : Int) : Prop := (0 ≤ x ∧ x < s.width.toNat) ∧ (0 ≤ y ∧ y < s.height.toNat)

/-- Two pixels of the raster at one word are one pixel (44_dither.md R220). -/
theorem pixelIndex_inj {s : State} {x y x' y' : Int} (h : InRaster s x y) (h' : InRaster s x' y')
    (he : pixelIndex s x y = pixelIndex s x' y') : x = x' ∧ y = y' := by
  obtain ⟨⟨hx, hxw⟩, hy, -⟩ := h
  obtain ⟨⟨hx', hxw'⟩, hy', -⟩ := h'
  have hw : (0 : Int) < s.width.toNat := by omega
  have hmul : y * (s.width.toNat : Int) + x = y' * s.width.toNat + x' := by
    have h0 := mul_nonneg hy hw.le
    have h0' := mul_nonneg hy' hw.le
    unfold pixelIndex at he
    omega
  have hrow {a b : Int} (hb : 0 ≤ b) (hbw : b < s.width.toNat) : (a * (s.width.toNat : Int) + b) / s.width.toNat = a := by
    rw [add_comm, Int.add_mul_ediv_right _ _ hw.ne', Int.ediv_eq_zero_of_lt hb hbw, zero_add]
  have hyy : y = y' := by rw [← hrow (a := y) hx hxw, hmul, hrow hx' hxw']
  subst hyy
  exact ⟨by omega, rfl⟩

/-! ### The pixels that a kernel pass touches -/

/-- A pass of `kernel` over `x ∈ [x0, x1]`, `y ∈ [y0, y1]` processes pixel `(x, y)`, or a pixel that it is a neighbour of
(44_dither.md R229). -/
def Touched (kernel : List Tap) (x0 x1 y0 y1 x y : Int) : Prop :=
  ∃ x' y' : Int, (x0 ≤ x' ∧ x' ≤ x1) ∧ (y0 ≤ y' ∧ y' ≤ y1) ∧
    ((x = x' ∧ y = y') ∨ ∃ tap ∈ kernel, x = x' + tap.dx ∧ y = y' + tap.dy)

/-- Every pixel that the pass touches lies in the raster of `s` (44_dither.md R229). -/
def StaysInside (kernel : List Tap) (x0 x1 y0 y1 : Int) (s : State) : Prop :=
  ∀ x y, Touched kernel x0 x1 y0 y1 x y → InRaster s x y

/-- A tap as the statements write it: column offset, row offset, weight. -/
def Tap.triple (tap : Tap) : Int × Int × Int := (tap.dx, tap.dy, tap.weight)

/-- The words of a pass are those of the pixels it touches. -/
theorem passWord_iff {kernel : List Tap} {x0 x1 y0 y1 : Int} {s : State} {n : Nat} :
    PassWord kernel (raster x0 x1 y0 y1) s n ↔ ∃ x y, Touched kernel x0 x1 y0 y1 x y ∧ n = pixelIndex s x y := by
  constructor
  · rintro ⟨⟨x, y⟩, hxy, rfl | ⟨tap, htap, rfl⟩⟩
    · obtain ⟨hx, hy⟩ := mem_raster.1 hxy
      exact ⟨x, y, ⟨x, y, hx, hy, .inl ⟨rfl, rfl⟩⟩, rfl⟩
    · obtain ⟨hx, hy⟩ := mem_raster.1 hxy
      exact ⟨_, _, ⟨x, y, hx, hy, .inr ⟨tap, htap, rfl, rfl⟩⟩, rfl⟩
  · rintro ⟨x, y, ⟨x', y', hx, hy, ⟨rfl, rfl⟩ | ⟨tap, htap, rfl, rfl⟩⟩, rfl⟩
    · exact ⟨(x, y), mem_raster.2 ⟨hx, hy⟩, .inl rfl⟩
    · exact ⟨(x', y'), mem_raster.2 ⟨hx, hy⟩, .inr ⟨tap, htap, rfl⟩⟩

/-- The statements' reading of "every pixel that the pass reads is written" is that of the words of the pass. -/
theorem kernelReadsWritten_iff {kernel : List Tap} {x0 x1 y0 y1 : Int} {s : State} :
    KernelReadsWritten (kernel.map Tap.triple) x0 x1 y0 y1 s ↔
      ∀ n, PassWord kernel (raster x0 x1 y0 y1) s n → Written s n := by
  constructor
  · rintro h n ⟨⟨x, y⟩, hxy, hn⟩
    obtain ⟨⟨hx0, hx1⟩, hy0, hy1⟩ := mem_raster.1 hxy
    obtain ⟨hpixel, htaps⟩ := h x y hx0 hx1 hy0 hy1
    obtain rfl | ⟨tap, htap, rfl⟩ := hn
    · exact hpixel
    · exact htaps tap.triple (List.mem_map_of_mem htap)
  · intro h x y hx0 hx1 hy0 hy1
    have hxy := mem_raster.2 ⟨⟨hx0, hx1⟩, hy0, hy1⟩
    refine ⟨h _ ⟨(x, y), hxy, .inl rfl⟩, fun k hk => ?_⟩
    obtain ⟨tap, htap, rfl⟩ := List.mem_map.1 hk
    exact h _ ⟨(x, y), hxy, .inr ⟨tap, htap, rfl⟩⟩

/-- Where the pixels of a Floyd-Steinberg pass lie (44_dither.md R224, R230). -/
theorem touched_fs {w h x y : Int} (ht : Touched kernelFs 1 (w - 3) 1 (h - 3) x y) :
    (0 ≤ x ∧ x ≤ w - 2) ∧ (1 ≤ y ∧ y ≤ h - 2) ∧ (x = 0 → 2 ≤ y) := by
  obtain ⟨x', y', hx, hy, ⟨rfl, rfl⟩ | ⟨tap, htap, rfl, rfl⟩⟩ := ht
  · omega
  · simp only [kernelFs, List.mem_cons, List.not_mem_nil, or_false] at htap
    obtain rfl | rfl | rfl | rfl := htap <;> dsimp only <;> omega

/-- Where the pixels of a Jarvis-Judice-Ninke pass lie (44_dither.md R226, R230). -/
theorem touched_jjn {w h x y : Int} (ht : Touched kernelJjn 3 (w - 4) 0 (h - 4) x y) :
    (0 ≤ x ∧ x ≤ w - 2) ∧ (0 ≤ y ∧ y ≤ h - 2) ∧ (y = 0 → 3 ≤ x) ∧ (x = w - 2 → y ≤ h - 4) := by
  obtain ⟨x', y', hx, hy, ⟨rfl, rfl⟩ | ⟨tap, htap, rfl, rfl⟩⟩ := ht
  · omega
  · simp only [kernelJjn, List.mem_cons, List.not_mem_nil, or_false] at htap
    obtain rfl | rfl | rfl | rfl | rfl | rfl | rfl | rfl | rfl | rfl | rfl | rfl := htap <;> dsimp only <;> omega

theorem staysInside_fs (s : State) : StaysInside kernelFs 1 ((s.width.toNat : Int) - 3) 1 ((s.height.toNat : Int) - 3) s := by
  intro x y ht
  obtain ⟨hx, hy, -⟩ := touched_fs ht
  exact ⟨by omega, by omega⟩

theorem staysInside_jjn (s : State) : StaysInside kernelJjn 3 ((s.width.toNat : Int) - 4) 0 ((s.height.toNat : Int) - 4) s := by
  intro x y ht
  obtain ⟨hx, hy, -⟩ := touched_jjn ht
  exact ⟨by omega, by omega⟩

/-! ### What a command that fits answers -/

section
variable {pass : State → Except Fault State} {s : State}

theorem ditherCommand_next_iff (hfit : RasterFits s) {t : State} : ditherCommand pass s = .next t ↔ pass s = .ok t := by
  obtain ⟨hlt, -⟩ | ⟨-, u, hpass, hcmd⟩ | ⟨-, f, hpass, hcmd⟩ := ditherCommand_cases pass s
  · exact absurd hfit hlt.not_ge
  · rw [hpass, hcmd, Host.Outcome.next.injEq, Except.ok.injEq]
  · simp [hpass, hcmd]

theorem ditherCommand_fault_iff (hfit : RasterFits s) {f : Fault} : ditherCommand pass s = .fault f ↔ pass s = .error f := by
  obtain ⟨hlt, -⟩ | ⟨-, u, hpass, hcmd⟩ | ⟨-, g, hpass, hcmd⟩ := ditherCommand_cases pass s
  · exact absurd hfit hlt.not_ge
  · simp [hpass, hcmd]
  · rw [hpass, hcmd, Host.Outcome.fault.injEq, Except.error.injEq]

end

theorem exec_ditherNaive_next_iff {s t : State} (hfit : RasterFits s) : exec .ditherNaive s = .next t ↔ naivePass s = .ok t :=
  ditherCommand_next_iff hfit

theorem exec_ditherFs_next_iff {s t : State} (hfit : RasterFits s) : exec .ditherFs s = .next t ↔ fsPass s = .ok t :=
  ditherCommand_next_iff hfit

theorem exec_ditherJjn_next_iff {s t : State} (hfit : RasterFits s) : exec .ditherJjn s = .next t ↔ jjnPass s = .ok t :=
  ditherCommand_next_iff hfit

/-! ### Empty ranges -/

theorem span_eq_nil {a b : Int} (h : b < a) : span a b = [] := by
  rw [span, Int.toNat_eq_zero.2 (by omega), List.range_zero, List.map_nil]

theorem raster_eq_nil {x0 x1 y0 y1 : Int} (h : x1 < x0 ∨ y1 < y0) : raster x0 x1 y0 y1 = [] := by
  unfold raster
  obtain hx | hy := h
  · simp [span_eq_nil hx]
  · rw [span_eq_nil hy, List.flatMap_nil]

/-- Settles O55: an empty range has no pixel to process. -/
theorem emptyRangesChangeNothing : Obligations.EmptyRangesChangeNothing := by
  unfold Obligations.EmptyRangesChangeNothing
  refine fun s hfit => ⟨fun h => (exec_ditherFs_next_iff hfit).2 ?_, fun h => (exec_ditherJjn_next_iff hfit).2 ?_⟩
  · rw [fsPass, raster_eq_nil (by omega), forEach_nil]
  · rw [jjnPass, raster_eq_nil (by omega), forEach_nil]

/-! ### What a pass leaves unchanged -/

/-- A pass that writes only words of the raster leaves every byte outside it and every reserved lane (44_dither.md R229). -/
theorem PassFrame.unchangedOutsideRaster {s t : State} (h : PassFrame (fun n => n < frameSize s) s t) :
    UnchangedOutsideRaster s t := by
  refine fun a ha => h.bytes a fun n hn _ => ?_
  unfold frameSize at hn
  unfold fbAddr
  omega

theorem PassFrame.written_iff {R : Nat → Prop} {s t : State} (h : PassFrame R s t) (n : Nat) : Written t n ↔ Written s n := by
  rw [Written, Written, ← Option.isSome_iff_exists, ← Option.isSome_iff_exists, h.written]

theorem naivePass_changes {s t : State} (h : naivePass s = .ok t) :
    t = { s with mem := t.mem, dthErr := ⟨0, 0, 0⟩ } ∧ UnchangedOutsideRaster s t := by
  obtain ⟨hframe, herr⟩ := naivePass_frame h
  refine ⟨?_, hframe.unchangedOutsideRaster⟩
  rw [← herr]
  exact hframe.rest

/-- A kernel pass leaves the error term too (44_dither.md R225; 10_state.md R40). -/
theorem kernelPass_changes {kernel : List Tap} {divisor : Nat} {pts : List (Int × Int)} {s t : State}
    (h : forEach (kernelPixel kernel divisor) pts s = .ok t) (hframe : PassFrame (fun n => n < frameSize s) s t) :
    t = { s with mem := t.mem } ∧ UnchangedOutsideRaster s t := by
  have hrest := hframe.rest
  rw [kernelPass_dthErr h] at hrest
  exact ⟨hrest, hframe.unchangedOutsideRaster⟩

/-- Settles O57: the frame of each pass. -/
theorem ditherChangesOnlyTheRaster : Obligations.DitherChangesOnlyTheRaster := by
  unfold Obligations.DitherChangesOnlyTheRaster
  refine fun s t hfit => ⟨fun h => ?_, fun h => ?_, fun h => ?_⟩
  · exact naivePass_changes ((exec_ditherNaive_next_iff hfit).1 h)
  · have hpass := (exec_ditherFs_next_iff hfit).1 h
    exact kernelPass_changes hpass (fsPass_frame hpass)
  · have hpass := (exec_ditherJjn_next_iff hfit).1 h
    exact kernelPass_changes hpass (jjnPass_frame hpass)

/-! ### When a kernel pass completes -/

/-- A loop that completes has run its body on each element, in a state with every property that the body keeps. -/
theorem forEach_ok_mem {α : Type} {body : α → State → Except Fault State} {P : State → Prop} {as : List α}
    (hb : ∀ a ∈ as, ∀ s t, P s → body a s = .ok t → P t) :
    ∀ {s t : State}, P s → forEach body as s = .ok t → ∀ a ∈ as, ∃ u v, P u ∧ body a u = .ok v := by
  induction as with
  | nil => intro s t _ _ a ha; cases ha
  | cons a as ih =>
    intro s t hs he b hbm
    rw [forEach_cons] at he
    split at he
    next u hu =>
      obtain rfl | hbm := List.mem_cons.1 hbm
      · exact ⟨s, u, hs, hu⟩
      · exact ih (fun c hc => hb c (List.mem_cons_of_mem a hc)) (hb a List.mem_cons_self s u hs hu) he b hbm
    next => cases he

theorem diffuseTap_reads_written {divisor : Nat} {e : Rgb Int} {xy : Int × Int} {tap : Tap} {s t : State}
    (h : diffuseTap divisor e xy tap s = .ok t) : Written s (pixelIndex s (xy.1 + tap.dx) (xy.2 + tap.dy)) := by
  obtain ⟨p, hp, -⟩ | ⟨-, he⟩ := diffuseTap_cases divisor e xy tap s
  · exact ⟨p, hp⟩
  · rw [he] at h
    cases h

/-- The shape of a kernel pixel that completes: the pixel itself, then its neighbours (44_dither.md R225). -/
theorem kernelPixel_ok_cases {kernel : List Tap} {divisor : Nat} {xy : Int × Int} {s t : State}
    (h : kernelPixel kernel divisor xy s = .ok t) :
    ∃ o, fbRead s.mem (pixelIndex s xy.1 xy.2) = some o ∧
      forEach (diffuseTap divisor (o.map channelError) xy) kernel
        (writePixel s xy.1 xy.2 (o.zipWith addClamp (o.map channelError))) = .ok t := by
  unfold kernelPixel at h
  split at h
  next => cases h
  next o ho => exact ⟨o, readPixel_ok.1 ho, h⟩

/-- A kernel pixel that completes has found every word it reads written. -/
theorem kernelPixel_reads_written {kernel : List Tap} {divisor : Nat} {xy : Int × Int} {s t : State}
    (h : kernelPixel kernel divisor xy s = .ok t) {n : Nat} (hn : KernelWord kernel xy s n) : Written s n := by
  obtain ⟨o, ho, hloop⟩ := kernelPixel_ok_cases h
  obtain rfl | ⟨tap, htap, rfl⟩ := hn
  · exact ⟨o, ho⟩
  · have hwrite : PassFrame (fun _ => True) s (writePixel s xy.1 xy.2 (o.zipWith addClamp (o.map channelError))) :=
      passFrame_writePixel _ o trivial ho
    obtain ⟨u, v, hu, huv⟩ := forEach_ok_mem (P := PassFrame (fun _ => True) s)
      (fun _ _ _ _ hu hv => hu.trans (diffuseTap_frame trivial hv)) hwrite hloop tap htap
    have hw := diffuseTap_reads_written huv
    rwa [hu.written_iff, hu.pixelIndex] at hw

/-- A kernel pass that completes has found every word it reads written. -/
theorem kernelPass_reads_written {kernel : List Tap} {divisor : Nat} {pts : List (Int × Int)} {s t : State}
    (h : forEach (kernelPixel kernel divisor) pts s = .ok t) {n : Nat} (hn : PassWord kernel pts s n) : Written s n := by
  obtain ⟨xy, hxy, hn⟩ := hn
  obtain ⟨u, v, hu, huv⟩ := forEach_ok_mem (P := PassFrame (fun _ => True) s)
    (fun _ _ _ _ hu hv => hu.trans (kernelPixel_frame (fun _ _ => trivial) hv)) (PassFrame.refl _ s) h xy hxy
  exact (hu.written_iff n).1 (kernelPixel_reads_written huv ((kernelWord_frame hu n).2 hn))

/-- A kernel pass completes exactly when every pixel that it reads is written (70_reset_and_hazards.md R288). -/
theorem kernelPass_completes_iff {kernel : List Tap} {divisor : Nat} {x0 x1 y0 y1 : Int} {s : State} :
    (∃ t, forEach (kernelPixel kernel divisor) (raster x0 x1 y0 y1) s = .ok t) ↔
      KernelReadsWritten (kernel.map Tap.triple) x0 x1 y0 y1 s := by
  rw [kernelReadsWritten_iff]
  constructor
  · rintro ⟨t, ht⟩ n hn
    exact kernelPass_reads_written ht hn
  · intro h
    exact kernelPass_ok fun n hn => Option.isSome_iff_exists.2 (h n hn)

/-- The pixels that keep `KernelReadsWritten` from holding. -/
theorem not_kernelReadsWritten_iff {kernel : List (Int × Int × Int)} {x0 x1 y0 y1 : Int} {s : State} :
    ¬ KernelReadsWritten kernel x0 x1 y0 y1 s ↔
      ∃ x y : Int, x0 ≤ x ∧ x ≤ x1 ∧ y0 ≤ y ∧ y ≤ y1 ∧
        (¬ PixelWritten s x y ∨ ∃ k ∈ kernel, ¬ PixelWritten s (x + k.1) (y + k.2.1)) := by
  simp only [KernelReadsWritten, not_forall, not_and_or, exists_prop]

/-- A command of a kernel pass that fits faults exactly when the pass reads an unwritten pixel, and completes otherwise. -/
theorem kernelCommand_faults_iff {pass : State → Except Fault State} {kernel : List Tap} {divisor : Nat} {x0 x1 y0 y1 : Int}
    {s : State} (hpass : pass s = forEach (kernelPixel kernel divisor) (raster x0 x1 y0 y1) s) (hfit : RasterFits s) :
    ((∃ n, ditherCommand pass s = .fault (.unwrittenFrameBuffer n)) ↔
      ¬ KernelReadsWritten (kernel.map Tap.triple) x0 x1 y0 y1 s) ∧
    ((∃ n, ditherCommand pass s = .fault (.unwrittenFrameBuffer n)) ∨ ∃ t, ditherCommand pass s = .next t) := by
  rw [← kernelPass_completes_iff (divisor := divisor), ← hpass]
  simp only [ditherCommand_fault_iff hfit, ditherCommand_next_iff hfit]
  cases hp : pass s with
  | ok t => simp
  | error f =>
    obtain ⟨n, rfl, -⟩ := kernelPass_error (hpass.symm.trans hp)
    simp

/-- Settles O53: by `kernelCommand_faults_iff`. -/
theorem ditherFsFaultsExactlyOnUnwrittenWords : Obligations.DitherFsFaultsExactlyOnUnwrittenWords := by
  unfold Obligations.DitherFsFaultsExactlyOnUnwrittenWords
  intro s hfit
  rw [← not_kernelReadsWritten_iff]
  exact kernelCommand_faults_iff (pass := fsPass) (kernel := kernelFs) rfl hfit

/-- Settles O54: by `kernelCommand_faults_iff`. -/
theorem ditherJjnFaultsExactlyOnUnwrittenWords : Obligations.DitherJjnFaultsExactlyOnUnwrittenWords := by
  unfold Obligations.DitherJjnFaultsExactlyOnUnwrittenWords
  intro s hfit
  rw [← not_kernelReadsWritten_iff]
  exact kernelCommand_faults_iff (pass := jjnPass) (kernel := kernelJjn) rfl hfit

end Sys2Proof.Machine
end

section
/-! PROOFS. The dither family (spec/44_dither.md): what the naive filter computes (R223), and the pixels that
each filter never writes (R230). -/

namespace Sys2Proof.Machine

open Sys2Proof.Safety

/-! ### The order of the raster -/

/-- The whole raster in raster order is the words `0 .. W*H-1` in their order (44_dither.md R220, R223). -/
theorem map_pixelIndex_raster (s : State) :
    (raster 0 ((s.width.toNat : Int) - 1) 0 ((s.height.toNat : Int) - 1)).map (fun xy => pixelIndex s xy.1 xy.2) =
      List.range (frameSize s) := by
  have hspan (n : Nat) : span 0 ((n : Int) - 1) = (List.range n).map (fun k : Nat => (k : Int)) := by
    simp [span]
  have hindex (x y : Nat) : pixelIndex s x y = s.width.toNat * y + x := by
    unfold pixelIndex
    rw [mul_comm]
    norm_cast
  rw [raster, hspan, hspan, frameSize]
  simp only [List.map_flatMap, List.map_map, List.flatMap_map, Function.comp_def, hindex]
  generalize s.height.toNat = h
  induction h with
  | zero => rfl
  | succ h ih => rw [List.range_succ, List.flatMap_append, ih, List.flatMap_singleton, Nat.mul_succ, List.range_add]

/-! ### The running error of the naive filter -/

@[simp] theorem Rgb.chan_zipWith {α β γ : Type} (f : α → β → γ) (t : Rgb α) (u : Rgb β) (c : Channel) :
    (t.zipWith f u).chan c = f (t.chan c) (u.chan c) := by
  cases c <;> rfl

@[simp] theorem Rgb.chan_map {α β : Type} (f : α → β) (t : Rgb α) (c : Channel) : (t.map f).chan c = f (t.chan c) := by
  cases c <;> rfl

theorem Rgb.ext_chan {α : Type} {t u : Rgb α} (h : ∀ c, t.chan c = u.chan c) : t = u := by
  obtain ⟨r, g, b⟩ := t
  obtain ⟨rfl, rfl, rfl⟩ : r = u.r ∧ g = u.g ∧ b = u.b := ⟨h .r, h .g, h .b⟩
  rfl

/-- The corrected channel on integers (44_dither.md R223). -/
theorem naiveCorrected_toNat (o : BitVec 8) (err : BitVec 10) :
    ((naiveCorrected o err).toNat : Int) = clampInt (o.toNat + err.toInt) :=
  clamp8_toNat _

/-- The next error on integers: it fits its 10 bits (44_dither.md R223, 10_state.md R40). -/
theorem naiveError_toInt (o corr : BitVec 8) : (naiveError o corr).toInt = o.toNat - 17 * (corr.toNat / 16) := by
  obtain ⟨hlo, hhi⟩ := naiveError_range o corr
  rw [naiveError, ofInt10_toInt (by omega) (by omega), q8_toNat]
  norm_cast

/-- What the naive filter does to word `n` on channel `c` with the running error `e`, and the error `e'` that it leaves
(44_dither.md R223). -/
def NaiveStep (s t : State) (c : Channel) (n : Nat) (e e' : Int) : Prop :=
  ∃ p q, fbRead s.mem n = some p ∧ fbRead t.mem n = some q ∧
    ((q.chan c).toNat : Int) = clampInt ((p.chan c).toNat + e) ∧
    e' = (p.chan c).toNat - 17 * ((q.chan c).toNat / 16) ∧ -255 ≤ e ∧ e ≤ 255

/-- The step is about word `n` alone. -/
theorem NaiveStep.congr {s s' t t' : State} {c : Channel} {n : Nat} {e e' : Int} (h : NaiveStep s t c n e e')
    (hs : fbRead s'.mem n = fbRead s.mem n) (ht : fbRead t'.mem n = fbRead t.mem n) : NaiveStep s' t' c n e e' := by
  unfold NaiveStep
  rw [hs, ht]
  exact h

/-- The running error of channel `c`, as an integer (10_state.md R40). -/
def runningError (s : State) (c : Channel) : Int := (s.dthErr.chan c).toInt

/-- One pixel of the naive pass (44_dither.md R223). -/
theorem naivePixel_spec {xy : Int × Int} {s t : State} {c : Channel} (h : naivePixel xy s = .ok t)
    (hlo : -255 ≤ runningError s c) (hhi : runningError s c ≤ 255) :
    NaiveStep s t c (pixelIndex s xy.1 xy.2) (runningError s c) (runningError t c) ∧
      -255 ≤ runningError t c ∧ runningError t c ≤ 255 := by
  obtain ⟨o, ho, hpixel⟩ | ⟨-, hpixel⟩ := naivePixel_cases xy s <;> rw [hpixel] at h <;> cases h
  have herr := naiveError_toInt (o.chan c) (naiveCorrected (o.chan c) (s.dthErr.chan c))
  have hrange := naiveError_range (o.chan c) (naiveCorrected (o.chan c) (s.dthErr.chan c))
  rw [q8_toNat] at hrange
  simp only [runningError, State.setDthErr_dthErr, Rgb.chan_zipWith]
  refine ⟨⟨o, _, ho, fbRead_fbWrite_same _ _ _, ?_, ?_, hlo, hhi⟩, by omega, by omega⟩
  · rw [Rgb.chan_zipWith]
    exact naiveCorrected_toNat _ _
  · rw [Rgb.chan_zipWith]
    exact herr

/-- The naive loop over pixels whose words are `k, k + 1, ...` carries one running error per channel, from the error term that it
starts with (44_dither.md R223). -/
theorem naiveLoop_spec {c : Channel} {pts : List (Int × Int)} : ∀ {k : Nat} {s t : State},
    pts.map (fun xy => pixelIndex s xy.1 xy.2) = List.range' k pts.length →
    -255 ≤ runningError s c → runningError s c ≤ 255 → forEach naivePixel pts s = .ok t →
    ∃ err : Nat → Int, err k = runningError s c ∧
      ∀ n, k ≤ n → n < k + pts.length → NaiveStep s t c n (err n) (err (n + 1)) := by
  induction pts with
  | nil => exact fun _ _ _ _ => ⟨fun _ => _, rfl, fun n h1 h2 => absurd h2 h1.not_gt⟩
  | cons xy pts ih =>
    intro k s t hpts hlo hhi hloop
    rw [List.map_cons, List.length_cons, List.range'_succ, List.cons.injEq] at hpts
    obtain ⟨hk, hpts⟩ := hpts
    rw [forEach_cons] at hloop
    split at hloop
    case h_2 => cases hloop
    next u hu =>
    obtain ⟨hstep, hlo', hhi'⟩ := naivePixel_spec hu hlo hhi
    have hframe : PassFrame (fun n => n = k) s u := naivePixel_frame hk hu
    have hpts' : pts.map (fun xy => pixelIndex u xy.1 xy.2) = List.range' (k + 1) pts.length := by
      simpa only [hframe.pixelIndex] using hpts
    obtain ⟨err, herr, hsteps⟩ := ih hpts' hlo' hhi' hloop
    refine ⟨Function.update err k (runningError s c), Function.update_self .., fun n hle hlt => ?_⟩
    rw [Function.update_of_ne (show n + 1 ≠ k by omega)]
    obtain rfl | hgt := hle.eq_or_lt
    · have hlater : ¬ NaiveWord pts u k := by
        rintro ⟨xy', hxy', rfl⟩
        have hmem := List.mem_map_of_mem (f := fun xy => pixelIndex u xy.1 xy.2) hxy'
        rw [hpts', List.mem_range'_1] at hmem
        omega
      rw [Function.update_self, herr]
      exact (hk ▸ hstep).congr rfl ((naiveLoop_frame hloop).fbRead_eq hlater)
    · rw [Function.update_of_ne hgt.ne']
      rw [List.length_cons] at hlt
      exact (hsteps n hgt (by omega)).congr (hframe.fbRead_eq hgt.ne').symm rfl

/-- A naive pass that completes carries one running error per channel over the whole raster, from 0 (44_dither.md R223). -/
theorem naivePass_spec {s t : State} (h : naivePass s = .ok t) (c : Channel) :
    ∃ err : Nat → Int, err 0 = 0 ∧ ∀ n, n < frameSize s → NaiveStep s t c n (err n) (err (n + 1)) := by
  unfold naivePass at h
  split at h <;> cases h
  next u hu =>
  have hpts := map_pixelIndex_raster s
  have hlength := congrArg List.length hpts
  rw [List.length_map, List.length_range] at hlength
  have hzero : runningError (s.setDthErr ⟨0, 0, 0⟩) c = 0 := by cases c <;> rfl
  obtain ⟨err, herr, hsteps⟩ := naiveLoop_spec (c := c) (k := 0)
    (by rw [hlength, ← List.range_eq_range']; exact hpts) (by omega) (by omega) hu
  rw [hlength] at hsteps
  exact ⟨err, herr.trans hzero, fun n hn => (hsteps n (Nat.zero_le n) (by omega)).congr rfl rfl⟩

/-- A naive pass over a written raster completes (70_reset_and_hazards.md R288). -/
theorem naivePass_completes {s : State} (hw : RasterWritten s) : ∃ t, naivePass s = .ok t := by
  unfold naivePass
  split
  next => exact ⟨_, rfl⟩
  next f hf =>
    obtain ⟨n, -, hn, hnone⟩ := naiveLoop_error hf
    obtain ⟨p, hp⟩ := hw n (naiveWord_lt hn)
    exact nomatch hnone.symm.trans hp

/-- Settles O49: the loop's running error, by induction on the pixels. -/
theorem ditherNaiveCarriesTheRunningError : Obligations.DitherNaiveCarriesTheRunningError := by
  unfold Obligations.DitherNaiveCarriesTheRunningError
  intro s hfit hw
  obtain ⟨t, ht⟩ := naivePass_completes hw
  obtain ⟨hrest, houtside⟩ := naivePass_changes ht
  exact ⟨t, (exec_ditherNaive_next_iff hfit).2 ht, hrest, houtside, naivePass_spec ht⟩

/-! ### The pixels that a filter never writes -/

/-- A pixel that a kernel pass does not touch keeps its word (44_dither.md R230). -/
theorem kernelPass_fbRead_eq {kernel : List Tap} {divisor : Nat} {x0 x1 y0 y1 : Int} {s t : State}
    (h : forEach (kernelPixel kernel divisor) (raster x0 x1 y0 y1) s = .ok t) (hin : StaysInside kernel x0 x1 y0 y1 s)
    {x y : Int} (hxy : InRaster s x y) (hout : ¬ Touched kernel x0 x1 y0 y1 x y) :
    fbRead t.mem (pixelIndex s x y) = fbRead s.mem (pixelIndex s x y) := by
  refine (kernelPass_frame h).fbRead_eq fun hword => ?_
  obtain ⟨x', y', ht, he⟩ := passWord_iff.1 hword
  obtain ⟨rfl, rfl⟩ := pixelIndex_inj hxy (hin x' y' ht) he
  exact hout ht

/-- The first pixel meets the error 0, so the naive filter writes back what it read (44_dither.md R230). -/
theorem naivePass_fbRead_zero {s t : State} (h : naivePass s = .ok t) (hpos : 0 < frameSize s) :
    fbRead t.mem 0 = fbRead s.mem 0 := by
  obtain ⟨_, -, hsteps⟩ := naivePass_spec h .r
  obtain ⟨p, q, hp, hq, -⟩ := hsteps 0 hpos
  have hchan (c : Channel) : q.chan c = p.chan c := by
    obtain ⟨err, herr, hsteps⟩ := naivePass_spec h c
    obtain ⟨p', q', hp', hq', hpq, -⟩ := hsteps 0 hpos
    obtain rfl : p' = p := Option.some.inj (hp'.symm.trans hp)
    obtain rfl : q' = q := Option.some.inj (hq'.symm.trans hq)
    have hlt := (p'.chan c).isLt
    rw [herr, clampInt] at hpq
    exact BitVec.eq_of_toNat_eq (by omega)
  rw [hp, hq, Rgb.ext_chan hchan]

/-- Settles O56: a margin pixel is no pixel that the pass touches. -/
theorem marginPixelsAreNeverWritten : Obligations.MarginPixelsAreNeverWritten := by
  unfold Obligations.MarginPixelsAreNeverWritten
  intro s t x y hfit hx hxw hy hyh
  have hxy : InRaster s x y := ⟨⟨hx, hxw⟩, hy, hyh⟩
  refine ⟨fun h => ?_, fun h hmargin => ?_, fun h hmargin => ?_⟩
  · exact naivePass_fbRead_zero ((exec_ditherNaive_next_iff hfit).1 h) (Nat.zero_lt_of_lt (pixelIndex_lt hxy.1 hxy.2))
  · refine kernelPass_fbRead_eq ((exec_ditherFs_next_iff hfit).1 h) (staysInside_fs s) hxy fun ht => ?_
    have hbounds := touched_fs ht
    omega
  · refine kernelPass_fbRead_eq ((exec_ditherJjn_next_iff hfit).1 h) (staysInside_jjn s) hxy fun ht => ?_
    have hbounds := touched_jjn ht
    omega

end Sys2Proof.Machine
end

section
/-! PROOFS. The dither family (spec/44_dither.md): a kernel pass is the pseudocode on each channel (R221, R224 to R227). -/

namespace Sys2Proof.Machine

open Sys2Proof.Safety

/-! ### The pseudocode as a fold over the raster -/

/-- A fold over the numbers `x, x + 1, ...`, its first step taken out. -/
theorem foldl_range_succ_int {β : Type} (step : Int → β → β) (n : Nat) (x : Int) (f : β) :
    (List.range (n + 1)).foldl (fun g k => step (x + (k : Nat)) g) f =
      (List.range n).foldl (fun g k => step (x + 1 + (k : Nat)) g) (step x f) := by
  rw [List.range_succ_eq_map, List.foldl_cons, List.foldl_map]
  simp only [Nat.cast_zero, add_zero, Nat.succ_eq_add_one, Nat.cast_add, Nat.cast_one, add_assoc, add_comm (1 : Int)]

theorem diffuseRow_eq_foldl (mode : DiffDiv) (kernel : List (Int × Int × Int)) (d y : Int) (n : Nat) :
    ∀ (x : Int) (f : Int → Int → Int), diffuseRow mode kernel d y n x f =
      (List.range n).foldl (fun g k => diffuse mode kernel d (x + (k : Nat)) y g) f := by
  induction n with
  | zero => exact fun _ _ => rfl
  | succ n ih =>
    intro x f
    rw [diffuseRow, ih]
    exact (foldl_range_succ_int (fun x g => diffuse mode kernel d x y g) n x f).symm

theorem diffuseRows_eq_foldl (mode : DiffDiv) (kernel : List (Int × Int × Int)) (d x0 : Int) (n m : Nat) :
    ∀ (y : Int) (f : Int → Int → Int), diffuseRows mode kernel d x0 n m y f =
      (List.range m).foldl (fun g k => diffuseRow mode kernel d (y + (k : Nat)) n x0 g) f := by
  induction m with
  | zero => exact fun _ _ => rfl
  | succ m ih =>
    intro y f
    rw [diffuseRows, ih]
    exact (foldl_range_succ_int (fun y g => diffuseRow mode kernel d y n x0 g) m y f).symm

/-- The pseudocode runs over the pixels of the pass in raster order (44_dither.md R224, R225). -/
theorem diffuseRows_eq_foldl_raster (mode : DiffDiv) (kernel : List (Int × Int × Int)) (d x0 x1 y0 y1 : Int)
    (f : Int → Int → Int) :
    diffuseRows mode kernel d x0 (x1 - x0 + 1).toNat (y1 - y0 + 1).toNat y0 f =
      (raster x0 x1 y0 y1).foldl (fun g xy => diffuse mode kernel d xy.1 xy.2 g) f := by
  simp only [diffuseRows_eq_foldl, diffuseRow_eq_foldl, raster, span, List.foldl_flatMap, List.foldl_map]

/-! ### One channel of the frame buffer -/

theorem channelAt_of_fbRead {s : State} {x y : Int} {p : Rgb8} (h : fbRead s.mem (pixelIndex s x y) = some p) (c : Channel) :
    channelAt s c x y = (p.chan c).toNat := by
  unfold pixelIndex at h
  rw [channelAt, h]

/-- A pixel written sets that pixel of each channel and no other. -/
theorem channelAt_writePixel {s : State} {x y x' y' : Int} (h : InRaster s x y) (h' : InRaster s x' y') (p : Rgb8) (c : Channel) :
    channelAt (writePixel s x y p) c x' y' = setAt (channelAt s c) x y (p.chan c).toNat x' y' := by
  unfold setAt
  split
  next he =>
    obtain ⟨rfl, rfl⟩ := he
    exact channelAt_of_fbRead (fbRead_fbWrite_same _ _ _) c
  next hne =>
    have hread : fbRead (writePixel s x y p).mem (pixelIndex s x' y') = fbRead s.mem (pixelIndex s x' y') :=
      fbRead_fbWrite_ne s.mem p fun he => hne (pixelIndex_inj h' h he)
    unfold pixelIndex at hread
    unfold channelAt
    rw [writePixel, State.setMem_width, ← writePixel, hread]

/-! ### The kernel filters on one channel -/

/-- The error of a channel on integers (44_dither.md R225, 40_color.md R123). -/
theorem channelError_eq_errorInt (o : BitVec 8) : channelError o = errorInt o.toNat := by
  rw [channelError, errorInt, q8_toNat]
  norm_cast

theorem addClamp_toNat (v : BitVec 8) (term : Int) : ((addClamp v term).toNat : Int) = clampInt (v.toNat + term) :=
  clamp8_toNat _

/-- Channel `c` of the frame buffer of `t`, which a pass has reached from `s`, is `g` on the raster. -/
structure Tracks (s : State) (c : Channel) (t : State) (g : Int → Int → Int) : Prop where
  frame : PassFrame (fun _ => True) s t
  pixels : ∀ x y, InRaster s x y → channelAt t c x y = g x y

theorem PassFrame.inRaster_iff {R : Nat → Prop} {s t : State} (h : PassFrame R s t) {x y : Int} :
    InRaster t x y ↔ InRaster s x y := by
  rw [InRaster, InRaster, h.width, h.height]

/-- Writing a pixel of the raster on both sides. -/
theorem Tracks.write {s t : State} {c : Channel} {g : Int → Int → Int} (h : Tracks s c t g) {x y v : Int}
    (hxy : InRaster s x y) {p q : Rgb8} (hw : fbRead t.mem (pixelIndex t x y) = some q)
    (hv : ((p.chan c).toNat : Int) = v) : Tracks s c (writePixel t x y p) (setAt g x y v) where
  frame := h.frame.trans (passFrame_writePixel p q trivial hw)
  pixels x' y' h' := by
    rw [channelAt_writePixel (h.frame.inRaster_iff.2 hxy) (h.frame.inRaster_iff.2 h'), hv, setAt, setAt, h.pixels x' y' h']

/-- The spec's update of one neighbour `k` of the pixel `(x, y)` with error `e` (44_dither.md R225). -/
def diffuseTo (mode : DiffDiv) (d e x y : Int) (g : Int → Int → Int) (k : Int × Int × Int) : Int → Int → Int :=
  setAt g (x + k.1) (y + k.2.1) (clampInt (g (x + k.1) (y + k.2.1) + divInt mode (e * k.2.2) d))

theorem diffuse_eq_foldl (mode : DiffDiv) (kernel : List (Int × Int × Int)) (d x y : Int) (f : Int → Int → Int) :
    diffuse mode kernel d x y f =
      kernel.foldl (diffuseTo mode d (errorInt (f x y)) x y) (setAt f x y (clampInt (f x y + errorInt (f x y)))) := rfl

/-- A loop that completes follows the fold that its body follows. -/
theorem forEach_follows {α β : Type} {body : α → State → Except Fault State} {step : β → α → β} {P : State → β → Prop}
    {as : List α} (hb : ∀ a ∈ as, ∀ s t g, P s g → body a s = .ok t → P t (step g a)) :
    ∀ {s t : State} {g : β}, P s g → forEach body as s = .ok t → P t (as.foldl step g) := by
  induction as with
  | nil => intro s t g h he; cases he; exact h
  | cons a as ih =>
    intro s t g h he
    rw [forEach_cons] at he
    split at he
    next u hu => exact ih (fun b hbm => hb b (List.mem_cons_of_mem a hbm)) (hb a List.mem_cons_self s u g h hu) he
    next => cases he

/-- One tap follows the pseudocode's update of that neighbour (44_dither.md R225). -/
theorem diffuseTap_tracks {s u v : State} {c : Channel} {g : Int → Int → Int} {divisor : Nat} {e : Rgb Int} {x y : Int}
    {tap : Tap} (hin : InRaster s (x + tap.dx) (y + tap.dy)) (h : Tracks s c u g) (htap : diffuseTap divisor e (x, y) tap u = .ok v) :
    Tracks s c v (diffuseTo s.params.diffDiv divisor (e.chan c) x y g tap.triple) := by
  obtain ⟨p, hp, he⟩ | ⟨-, he⟩ := diffuseTap_cases divisor e (x, y) tap u <;> rw [he] at htap <;> cases htap
  refine h.write hin hp ?_
  rw [Rgb.chan_zipWith, Rgb.chan_map, addClamp_toNat, diffDiv_eq_divInt, h.frame.params, ← channelAt_of_fbRead hp,
    h.pixels _ _ hin]
  rfl

/-- One pixel of a kernel pass follows one pixel of the pseudocode (44_dither.md R225). -/
theorem kernelPixel_tracks {s u v : State} {c : Channel} {g : Int → Int → Int} {kernel : List Tap} {divisor : Nat} {x y : Int}
    (hxy : InRaster s x y) (hin : ∀ tap ∈ kernel, InRaster s (x + tap.dx) (y + tap.dy)) (h : Tracks s c u g)
    (hpixel : kernelPixel kernel divisor (x, y) u = .ok v) :
    Tracks s c v (diffuse s.params.diffDiv (kernel.map Tap.triple) divisor x y g) := by
  obtain ⟨o, ho, hloop⟩ := kernelPixel_ok_cases hpixel
  have hold : g x y = (o.chan c).toNat := by rw [← h.pixels x y hxy, channelAt_of_fbRead ho]
  have herr : (o.map channelError).chan c = errorInt (g x y) := by rw [Rgb.chan_map, channelError_eq_errorInt, hold]
  rw [diffuse_eq_foldl, List.foldl_map, ← herr]
  refine forEach_follows (P := Tracks s c) (fun tap htap _ _ _ hg ht => diffuseTap_tracks (hin tap htap) hg ht) ?_ hloop
  refine h.write hxy ho ?_
  rw [Rgb.chan_zipWith, addClamp_toNat, hold]

/-- A kernel pass that completes is the pseudocode on each channel (44_dither.md R225). -/
theorem kernelPass_tracks {s t : State} {kernel : List Tap} {divisor : Nat} {x0 x1 y0 y1 : Int}
    (hin : StaysInside kernel x0 x1 y0 y1 s) (h : forEach (kernelPixel kernel divisor) (raster x0 x1 y0 y1) s = .ok t)
    (c : Channel) :
    Tracks s c t (diffuseRows s.params.diffDiv (kernel.map Tap.triple) divisor x0 (x1 - x0 + 1).toNat (y1 - y0 + 1).toNat y0
      (channelAt s c)) := by
  rw [diffuseRows_eq_foldl_raster]
  refine forEach_follows (P := Tracks s c) (fun xy hxy _ _ _ hg hpixel => ?_) ⟨PassFrame.refl _ s, fun _ _ _ => rfl⟩ h
  obtain ⟨hx, hy⟩ := mem_raster.1 hxy
  exact kernelPixel_tracks (hin _ _ ⟨xy.1, xy.2, hx, hy, .inl ⟨rfl, rfl⟩⟩)
    (fun tap htap => hin _ _ ⟨xy.1, xy.2, hx, hy, .inr ⟨tap, htap, rfl, rfl⟩⟩) hg hpixel

/-- Settles O50: the pass completes and follows the pseudocode, by induction on the pixels and on the kernel. -/
theorem ditherFsIsThePseudocodeOnEachChannel : Obligations.DitherFsIsThePseudocodeOnEachChannel := by
  unfold Obligations.DitherFsIsThePseudocodeOnEachChannel
  intro s hfit hreads
  obtain ⟨t, ht⟩ := kernelPass_completes_iff (kernel := kernelFs) (divisor := 16).2 hreads
  obtain ⟨hrest, houtside⟩ := kernelPass_changes ht (fsPass_frame ht)
  refine ⟨t, (exec_ditherFs_next_iff hfit).2 ht, hrest, houtside, (fsPass_frame ht).written_iff, ?_⟩
  intro c x y hx hxw hy hyh
  have htracks := (kernelPass_tracks (staysInside_fs s) ht c).pixels x y ⟨⟨hx, hxw⟩, hy, hyh⟩
  rwa [show ((s.width.toNat : Int) - 3 - 1 + 1).toNat = s.width.toNat - 3 by omega,
    show ((s.height.toNat : Int) - 3 - 1 + 1).toNat = s.height.toNat - 3 by omega] at htracks

/-- Settles O51: the pass completes and follows the pseudocode, by induction on the pixels and on the kernel. -/
theorem ditherJjnIsThePseudocodeOnEachChannel : Obligations.DitherJjnIsThePseudocodeOnEachChannel := by
  unfold Obligations.DitherJjnIsThePseudocodeOnEachChannel
  intro s hfit hreads
  obtain ⟨t, ht⟩ := kernelPass_completes_iff (kernel := kernelJjn) (divisor := 48).2 hreads
  obtain ⟨hrest, houtside⟩ := kernelPass_changes ht (jjnPass_frame ht)
  refine ⟨t, (exec_ditherJjn_next_iff hfit).2 ht, hrest, houtside, (jjnPass_frame ht).written_iff, ?_⟩
  intro c x y hx hxw hy hyh
  have htracks := (kernelPass_tracks (staysInside_jjn s) ht c).pixels x y ⟨⟨hx, hxw⟩, hy, hyh⟩
  rwa [show ((s.width.toNat : Int) - 4 - 3 + 1).toNat = s.width.toNat - 6 by omega,
    show ((s.height.toNat : Int) - 4 - 0 + 1).toNat = s.height.toNat - 3 by omega] at htracks

end Sys2Proof.Machine
end

section
/-! PROOFS. The exceptions family (spec/60_exceptions.md): what sets and what clears a bit of `STATUS` (R250, R256, R260), and the
accesses that raise an error and change nothing else (R251, R254). -/

namespace Sys2Proof.Machine

open Sys2Proof.Safety

/-! ### The bits of `STATUS` -/

/-- Raising an error clears no bit (60_exceptions.md R250, R256). -/
theorem getLsbD_statusRaise_of_getLsbD {q : BitVec 4} {k : Nat} (h : q.getLsbD k = true) (e : ErrorName) :
    (statusRaise e q).getLsbD k = true := by
  rw [statusRaise, BitVec.getLsbD_or, h, Bool.true_or]

/-- A `STATUS` write clears exactly the bits written 1 (60_exceptions.md R256). -/
theorem getLsbD_statusClear {k : Nat} (hk : k < 4) (v : Word) (q : BitVec 4) :
    (statusClear v q).getLsbD k = (q.getLsbD k && !v.getLsbD k) := by
  simp [statusClear, hk]

/-! ### The data of a `CMD` write whose command may raise an error -/

theorem decodeCmd_eq_decCheck {v : Word} : decodeCmd v = .decCheck ↔ v.toNat % 16 = 3 := by
  rw [← cmdCode_toNat]
  unfold decodeCmd
  generalize cmdCode v = k
  revert k
  decide

/-- The codes from 7 on are the reserved ones (30_encoding.md R96). -/
theorem decodeCmd_reserved_iff {v : Word} :
    (decodeCmd v = .cmdReserved7 ∨ ∃ c, decodeCmd v = .cmdReserved8F c) ↔ 7 ≤ v.toNat % 16 := by
  rw [← cmdCode_toNat]
  unfold decodeCmd
  generalize cmdCode v = k
  revert k
  decide

/-! ### What raises each error -/

/-- The instructions that may raise each error (60_exceptions.md R250). -/
def MayRaise : ErrorName → Instr → Prop
  | .encOvf, i => ∃ v, i = .encInW v
  | .decOvf, i => (∃ v, i = .decInW v) ∨ ∃ n, i = .usepal n ∨ i = .modr n ∨ i = .modg n ∨ i = .modb n
  | .decLen, i => i = .decCheck ∨ ∃ v : Word, i = .cmdW v ∧ v.toNat % 16 = 3
  | .cmdErr, i => i = .cmdReserved7 ∨ (∃ c, i = .cmdReserved8F c) ∨ isDither i = true ∨
      ∃ v : Word, i = .cmdW v ∧ 7 ≤ v.toNat % 16

/-- A `CMD` write may raise what the command it selects may raise. -/
theorem MayRaise.cmdW {e : ErrorName} {v : Word} (h : MayRaise e (decodeCmd v)) : MayRaise e (.cmdW v) := by
  cases e with
  | encOvf =>
    obtain ⟨w, hw⟩ := h
    exact absurd hw (decodeCmd_ne rfl v)
  | decOvf => exact absurd (isDecoderStep_iff.2 h) (isDecoderStep_decodeCmd v)
  | decLen =>
    obtain hc | ⟨w, hw, -⟩ := h
    · exact .inr ⟨v, rfl, decodeCmd_eq_decCheck.1 hc⟩
    · exact absurd hw (decodeCmd_ne rfl v)
  | cmdErr =>
    obtain h7 | h8 | hd | ⟨w, hw, -⟩ := h
    · exact .inr (.inr (.inr ⟨v, rfl, decodeCmd_reserved_iff.1 (.inl h7)⟩))
    · exact .inr (.inr (.inr ⟨v, rfl, decodeCmd_reserved_iff.1 (.inr h8)⟩))
    · exact .inr (.inr (.inl ((isDither_decodeCmd v).symm.trans hd)))
    · exact absurd hw (decodeCmd_ne rfl v)

/-- All that an instruction can do to `STATUS`: nothing, the host's clear, or one error raised (60_exceptions.md R250, R260). -/
theorem Effect.status_cases {s t : State} {i : Instr} (h : Effect s i t) :
    t.status = s.status ∨ (∃ v, i = .statusW1C v) ∨ ∃ e, t.status = statusRaise e s.status ∧ MayRaise e i := by
  induction h with
  | status v => exact .inr (.inl ⟨v, rfl⟩)
  | encOvf v => exact .inr (.inr ⟨.encOvf, rfl, v, rfl⟩)
  | decOvf i hi => exact .inr (.inr ⟨.decOvf, rfl, isDecoderStep_iff.1 hi⟩)
  | decLen => exact .inr (.inr ⟨.decLen, rfl, .inl rfl⟩)
  | reserved7 => exact .inr (.inr ⟨.cmdErr, rfl, .inl rfl⟩)
  | reserved8F c => exact .inr (.inr ⟨.cmdErr, rfl, .inr (.inl ⟨c, rfl⟩)⟩)
  | ditherErr i hi => exact .inr (.inr ⟨.cmdErr, rfl, .inr (.inr (.inl hi))⟩)
  | command v t h ih =>
    obtain heq | ⟨w, hw⟩ | ⟨e, hst, he⟩ := ih
    · exact .inl heq
    · exact absurd hw (decodeCmd_ne rfl v)
    · exact .inr (.inr ⟨e, hst, he.cmdW⟩)
  | _ => exact .inl rfl

/-- All that an instruction other than the `STATUS` write can do to `STATUS`. -/
theorem exec_status_cases {i : Instr} {s t : State} (h : exec i s = .next t) (hi : ∀ v, i ≠ .statusW1C v) :
    t.status = s.status ∨ ∃ e, t.status = statusRaise e s.status ∧ MayRaise e i :=
  (exec_effect h).status_cases.imp_right (·.resolve_left (not_exists.2 hi))

/-- Settles O12: the write by its bits; any other instruction keeps `STATUS` or raises an error, and neither clears a bit. -/
theorem statusBitsAreStickyUntilWrittenOne : Obligations.StatusBitsAreStickyUntilWrittenOne := by
  unfold Obligations.StatusBitsAreStickyUntilWrittenOne
  refine ⟨fun v s => ⟨s.setStatus (statusClear v s.status), rfl, rfl, fun k hk => getLsbD_statusClear hk v s.status⟩,
    fun s => ⟨respond (s.status.setWidth 32) s, rfl, respond_status _ s⟩, fun i s t hi h k hbit => ?_⟩
  obtain heq | ⟨e, hst, -⟩ := exec_status_cases h hi
  · rwa [heq]
  · rw [hst]
    exact getLsbD_statusRaise_of_getLsbD hbit e

/-- Settles O43: an error raised is one of the four, each by the instructions that may raise it. -/
theorem anAccessRaisesAtMostOneError : Obligations.AnAccessRaisesAtMostOneError := by
  unfold Obligations.AnAccessRaisesAtMostOneError
  intro i s t h hi
  obtain heq | ⟨e, hst, he⟩ := exec_status_cases h hi
  · exact .inl heq
  · cases e with
    | encOvf => exact .inr (.inl ⟨hst, he⟩)
    | decOvf => exact .inr (.inr (.inl ⟨hst, he⟩))
    | decLen => exact .inr (.inr (.inr (.inl ⟨hst, he⟩)))
    | cmdErr => exact .inr (.inr (.inr (.inr ⟨hst, he⟩)))

/-! ### The accesses that only raise an error -/

theorem exec_encInW_of_full {s : State} (h : frameSize s ≤ s.encCount.toNat) (v : Word) :
    exec (.encInW v) s = .next (raiseError .encOvf s) := if_pos h

/-- Settles O30: at or past the frame size the write raises `ENC_OVF`, which is bit 0. -/
theorem encoderOverflowOnlySetsItsBit : Obligations.EncoderOverflowOnlySetsItsBit := by
  unfold Obligations.EncoderOverflowOnlySetsItsBit
  exact fun v s h => exec_encInW_of_full h v

theorem exec_cmdReserved7 (s : State) : exec .cmdReserved7 s = .next (raiseError .cmdErr s) := rfl

theorem exec_cmdReserved8F (c : BitVec 4) (s : State) : exec (.cmdReserved8F c) s = .next (raiseError .cmdErr s) := rfl

/-- A `CMD` write of a reserved code raises `CMD_ERR` (30_encoding.md R96). -/
theorem exec_cmdW_of_reserved {v : Word} (h : 7 ≤ v.toNat % 16) (s : State) :
    exec (.cmdW v) s = .next (raiseError .cmdErr s) := by
  obtain h7 | ⟨c, h8⟩ := decodeCmd_reserved_iff.2 h
  · rw [exec_cmdW, h7, exec_cmdReserved7]
  · rw [exec_cmdW, h8, exec_cmdReserved8F]

/-- Every dither command, as itself and as a `CMD` write, is the capacity check and then a pass (44_dither.md R220). -/
theorem exec_eq_ditherCommand {i : Instr} (hi : isDither i = true) : ∃ pass, ∀ s, exec i s = ditherCommand pass s := by
  cases i
  case ditherNaive => exact ⟨naivePass, fun _ => rfl⟩
  case ditherFs => exact ⟨fsPass, fun _ => rfl⟩
  case ditherJjn => exact ⟨jjnPass, fun _ => rfl⟩
  case cmdW v =>
    have hcode : (v.toNat % 16 = 4 ∨ v.toNat % 16 = 5) ∨ v.toNat % 16 = 6 := by
      simpa [isDither, isDitherCode] using hi
    obtain (h4 | h5) | h6 := hcode
    · exact ⟨naivePass, fun s => (cmdWrite_performs (k := 4) h4 s).2⟩
    · exact ⟨fsPass, fun s => (cmdWrite_performs (k := 5) h5 s).2⟩
    · exact ⟨jjnPass, fun s => (cmdWrite_performs (k := 6) h6 s).2⟩
  all_goals cases hi

/-- A dither command whose raster does not fit raises `CMD_ERR` and runs no pass (44_dither.md R220). -/
theorem exec_dither_of_not_fits {i : Instr} {s : State} (hi : isDither i = true) (h : s.params.fbPixels < frameSize s) :
    exec i s = .next (raiseError .cmdErr s) := by
  obtain ⟨pass, hexec⟩ := exec_eq_ditherCommand hi
  exact (hexec s).trans (if_pos h)

/-- Settles O42: each of these accesses raises `CMD_ERR`, which is bit 3. -/
theorem cmdErrOnlySetsItsBit : Obligations.CmdErrOnlySetsItsBit := by
  unfold Obligations.CmdErrOnlySetsItsBit
  exact fun s => ⟨exec_cmdReserved7 s, fun c => exec_cmdReserved8F c s, fun v h => exec_cmdW_of_reserved h s,
    fun i hi h => exec_dither_of_not_fits hi h⟩

end Sys2Proof.Machine
end

section
/-! PROOFS. The encoding family (spec/30_encoding.md, spec/20_memory.md R64): the round trips of the encoder and the decoder over the
three formats (R90 to R95), and the aligned accesses (10_state.md R21). -/

namespace Sys2Proof

/-! ### From an instruction to its code and back -/

/-- Every well-formed instruction comes back from its own code (30_encoding.md R90). -/
theorem decode_encode {i : Instr} (hw : i.wellFormed = true) : decode (encode i) = .ok i := by
  revert hw
  change Laws.RoundTrip.Statement i
  cases i
  case usepal n => exact Laws.RoundTrip.usepal n
  case modr n => exact Laws.RoundTrip.modr n
  case modg n => exact Laws.RoundTrip.modg n
  case modb n => exact Laws.RoundTrip.modb n
  case nop => exact Laws.RoundTrip.nop
  case encReset => exact Laws.RoundTrip.encReset
  case decReset => exact Laws.RoundTrip.decReset
  case decCheck => exact Laws.RoundTrip.decCheck
  case ditherNaive => exact Laws.RoundTrip.ditherNaive
  case ditherFs => exact Laws.RoundTrip.ditherFs
  case ditherJjn => exact Laws.RoundTrip.ditherJjn
  case cmdReserved7 => exact Laws.RoundTrip.cmdReserved7
  case cmdReserved8F c => exact Laws.RoundTrip.cmdReserved8F c
  case ctrlW v => exact Laws.RoundTrip.ctrlW v
  case ctrlR => exact Laws.RoundTrip.ctrlR
  case cmdW v => exact Laws.RoundTrip.cmdW v
  case statusR => exact Laws.RoundTrip.statusR
  case statusW1C v => exact Laws.RoundTrip.statusW1C v
  case widthW v => exact Laws.RoundTrip.widthW v
  case widthR => exact Laws.RoundTrip.widthR
  case heightW v => exact Laws.RoundTrip.heightW v
  case heightR => exact Laws.RoundTrip.heightR
  case encInW v => exact Laws.RoundTrip.encInW v
  case encOutR => exact Laws.RoundTrip.encOutR
  case encPrevR => exact Laws.RoundTrip.encPrevR
  case encCountR => exact Laws.RoundTrip.encCountR
  case decInW v => exact Laws.RoundTrip.decInW v
  case decOutR => exact Laws.RoundTrip.decOutR
  case decPrevR => exact Laws.RoundTrip.decPrevR
  case decCountR => exact Laws.RoundTrip.decCountR
  case lookupW v => exact Laws.RoundTrip.lookupW v
  case lookupOutR => exact Laws.RoundTrip.lookupOutR
  case fbSizeR => exact Laws.RoundTrip.fbSizeR
  case palW k v => exact Laws.RoundTrip.palW k v
  case palR k => exact Laws.RoundTrip.palR k
  case fbW n v => exact Laws.RoundTrip.fbW n v
  case fbR n => exact Laws.RoundTrip.fbR n
  case cmdR => exact Laws.RoundTrip.cmdR
  case encInR => exact Laws.RoundTrip.encInR
  case decInR => exact Laws.RoundTrip.decInR
  case lookupR => exact Laws.RoundTrip.lookupR
  case encOutW v => exact Laws.RoundTrip.encOutW v
  case encPrevW v => exact Laws.RoundTrip.encPrevW v
  case encCountW v => exact Laws.RoundTrip.encCountW v
  case decOutW v => exact Laws.RoundTrip.decOutW v
  case decPrevW v => exact Laws.RoundTrip.decPrevW v
  case decCountW v => exact Laws.RoundTrip.decCountW v
  case lookupOutW v => exact Laws.RoundTrip.lookupOutW v
  case fbSizeW v => exact Laws.RoundTrip.fbSizeW v
  case reservedR k => exact Laws.RoundTrip.reservedR k
  case reservedW k v => exact Laws.RoundTrip.reservedW k v

/-- Settles O5: `decode_encode`; a decoder that undoes the encoder leaves it no two instructions of one code. -/
theorem decodeOfEncodeIsTheInstruction : Obligations.DecodeOfEncodeIsTheInstruction := by
  unfold Obligations.DecodeOfEncodeIsTheInstruction
  refine ⟨fun i hi => decode_encode hi, fun i j hi hj hcode => ?_⟩
  have hdecode := decode_encode hi
  rw [hcode, decode_encode hj] at hdecode
  exact (Except.ok.inj hdecode).symm

/-! ### From an aligned access to its instruction and back -/

/-- `c` is a code that decodes to a well-formed instruction, and the encoder gives `c` back. -/
def ComesBack (c : Code) : Prop := ∃ i, decode c = .ok i ∧ i.wellFormed = true ∧ encode i = c

theorem registerRead_wellFormed_encode (k : BitVec 4) :
    (registerRead k).wellFormed = true ∧ encode (registerRead k) = readCode (registerOffset k) := by
  revert k
  decide

theorem registerWrite_wellFormed_encode (k : BitVec 4) (v : Word) :
    (registerWrite k v).wellFormed = true ∧ encode (registerWrite k v) = writeCode (registerOffset k) v := by
  unfold registerWrite
  split
  case h_16 =>
    obtain rfl : k = 15 := by
      simp only [imp_false] at *
      bv_omega
    exact ⟨rfl, rfl⟩
  all_goals exact ⟨rfl, rfl⟩

theorem comesBack_register (k : BitVec 4) (v : Word) :
    ComesBack (readCode (registerOffset k)) ∧ ComesBack (writeCode (registerOffset k) v) :=
  ⟨⟨_, decode_register_read k, registerRead_wellFormed_encode k⟩,
    ⟨_, decode_register_write k v, registerWrite_wellFormed_encode k v⟩⟩

theorem comesBack_pal (i : BitVec 4) (v : Word) :
    ComesBack (readCode (palOffset i)) ∧ ComesBack (writeCode (palOffset i) v) :=
  ⟨⟨_, decode_pal_read i, rfl, rfl⟩, ⟨_, decode_pal_write i v, rfl, rfl⟩⟩

theorem comesBack_space {k : BitVec 20} (hk : 0x20 ≤ k.toNat) (v : Word) :
    ComesBack (readCode (spaceOffset k)) ∧ ComesBack (writeCode (spaceOffset k) v) :=
  ⟨⟨_, decode_space_read hk, decide_eq_true hk, rfl⟩, ⟨_, decode_space_write v hk, decide_eq_true hk, rfl⟩⟩

theorem comesBack_fb (n : BitVec 20) (v : Word) :
    ComesBack (readCode (fbOffset n)) ∧ ComesBack (writeCode (fbOffset n) v) :=
  ⟨⟨_, decode_fb_read n, rfl, rfl⟩, ⟨_, decode_fb_write n v, rfl, rfl⟩⟩

/-- The address map: an aligned offset is that of a register, of a palette entry, of a reserved word or of a frame-buffer word
(20_memory.md R64). -/
theorem alignedOffset_cases {off : BitVec 23} (h4 : off.toNat % 4 = 0) :
    (∃ k, off = registerOffset k) ∨ (∃ i, off = palOffset i) ∨ (∃ k, off = spaceOffset k ∧ 0x20 ≤ k.toNat) ∨
      ∃ n, off = fbOffset n := by
  by_cases hspace : off.toNat < 0x400000
  case neg => exact .inr (.inr (.inr (Machine.exists_eq_fbOffset h4 (not_lt.1 hspace))))
  obtain ⟨k, rfl⟩ := Machine.exists_eq_spaceOffset h4 hspace
  have hword := spaceOffset_toNat k
  by_cases hregister : k.toNat < 0x10
  · refine .inl ⟨BitVec.ofNat 4 k.toNat, BitVec.eq_of_toNat_eq ?_⟩
    rw [hword, registerOffset_toNat, BitVec.toNat_ofNat]
    omega
  by_cases hpal : k.toNat < 0x20
  · refine .inr (.inl ⟨BitVec.ofNat 4 k.toNat, BitVec.eq_of_toNat_eq ?_⟩)
    rw [hword, palOffset_toNat, BitVec.toNat_ofNat]
    omega
  · exact .inr (.inr (.inl ⟨k, rfl, not_lt.1 hpal⟩))

/-- Settles O6: by the four parts of the address map. -/
theorem encodeOfDecodedAccessIsTheAccess : Obligations.EncodeOfDecodedAccessIsTheAccess := by
  unfold Obligations.EncodeOfDecodedAccessIsTheAccess
  intro off v h4
  change ComesBack (readCode off) ∧ ComesBack (writeCode off v)
  obtain ⟨k, rfl⟩ | ⟨i, rfl⟩ | ⟨k, rfl, hk⟩ | ⟨n, rfl⟩ := alignedOffset_cases h4
  · exact comesBack_register k v
  · exact comesBack_pal i v
  · exact comesBack_space hk v
  · exact comesBack_fb n v

/-! ### Codes written out from the spec -/

/-- Settles O8: each code by evaluating the decoder. -/
theorem wordsFromTheSpecDecode : Obligations.WordsFromTheSpecDecode := by
  unfold Obligations.WordsFromTheSpecDecode
  decide

end Sys2Proof
end

section
/-! PROOFS. The reset and state family (spec/70_reset_and_hazards.md, spec/10_state.md): what reset leaves (R280), what a step runs
(20_memory.md R60, R61, R71), the plain register writes and the reads (R22 to R38; 20_memory.md R68). -/

namespace Sys2Proof.Machine

open Sys2Proof.Safety

/-! ### Reset -/

theorem isResetState_afterReset (p : Params) (port : List HostEvent) : IsResetState (State.afterReset p port) :=
  ⟨rfl, rfl, rfl, rfl, rfl, rfl, rfl, rfl, rfl, rfl, rfl, fun _ => rfl, nofun⟩

/-- The sixteen entries of the OPEN palette stand in their order (10_state.md R38). -/
theorem palGet_configPalette (i : BitVec 4) : palGet Config.params.resetPalette i = Config.resetPalette i := by
  have hentry : ∀ k : Fin 16, palGet Config.params.resetPalette (.ofFin k) = Config.resetPalette (.ofFin k) := by
    intro k
    fin_cases k <;> rfl
  exact hentry i.toFin

/-- Settles O1: `State.reset` and the reset event leave a state of the form `State.afterReset`. -/
theorem resetLeavesTheResetValues : Obligations.ResetLeavesTheResetValues := by
  unfold Obligations.ResetLeavesTheResetValues
  refine ⟨isResetState_afterReset _ _, palGet_configPalette, fun s rest hp => ?_⟩
  refine ⟨blockReset (s.setPort rest), ?_, isResetState_afterReset _ _, rfl, rfl⟩
  simp only [step, hp]

/-- The OPEN capacity is a 20-bit number plus 1 (00_scope.md R6). -/
theorem configParams_legal : Config.params.Legal := by
  have hlt := Config.fbPixelsLessOne.isLt
  constructor <;> simp only [Config.params, Config.fbPixels] <;> omega

/-- Settles O59: a reset with a legal capacity leaves the invariant. -/
theorem resetSatisfiesTheInvariant : Obligations.ResetSatisfiesTheInvariant := by
  unfold Obligations.ResetSatisfiesTheInvariant
  exact inv_afterReset configParams_legal []

/-! ### What a step runs -/

/-- Settles O2: the decoder's answer is the instruction that the step runs. -/
theorem stepRunsTheDecodedAccess : Obligations.StepRunsTheDecodedAccess := by
  unfold Obligations.StepRunsTheDecodedAccess
  exact fun s a rest i hp hd => step_of_decode_ok hp hd

/-- Settles O3: the empty queue is the first case of a step. -/
theorem idleStepChangesNothing : Obligations.IdleStepChangesNothing := by
  unfold Obligations.IdleStepChangesNothing
  intro s hp
  simp only [step, hp]

/-! ### The plain register writes -/

/-- The low 16 bits of a data word (10_state.md R25, R26). -/
theorem lowHalf_eq (v : Word) : v.extractLsb' 0 16 = BitVec.ofNat 16 v.toNat := by
  rw [extract_eq_iff]
  simp

theorem exec_ctrlW (v : Word) (s : State) : exec (.ctrlW v) s = .next (s.setFfc (decide (v.toNat % 2 = 1))) := by
  rw [← Nat.testBit_zero]
  rfl

theorem exec_widthW (v : Word) (s : State) : exec (.widthW v) s = .next (s.setWidth (BitVec.ofNat 16 v.toNat)) := by
  rw [← lowHalf_eq]
  rfl

theorem exec_heightW (v : Word) (s : State) : exec (.heightW v) s = .next (s.setHeight (BitVec.ofNat 16 v.toNat)) := by
  rw [← lowHalf_eq]
  rfl

/-- Settles O10: the three fields as numbers. -/
theorem controlAndDimensionWritesStoreTheirField : Obligations.ControlAndDimensionWritesStoreTheirField := by
  unfold Obligations.ControlAndDimensionWritesStoreTheirField
  exact fun v s => ⟨exec_ctrlW v s, exec_widthW v s, exec_heightW v s⟩

/-! ### What the reads return -/

/-- A read that answers `w` returns the number that `w` stands for. -/
theorem exec_eq_returning {i : Instr} {w : Word} {n : Nat} {s : State} (hw : respond w s = returning s n)
    (h : exec i s = .next (respond w s)) : exec i s = .next (returning s n) :=
  hw ▸ h

/-- A register that reads zero-extended. -/
theorem respond_setWidth {w : Nat} (x : BitVec w) (s : State) : respond (x.setWidth 32) s = returning s x.toNat := by
  rw [respond, ← BitVec.ofNat_toNat]
  rfl

theorem respond_count (c : BitVec 32) (s : State) : respond c s = returning s c.toNat := by
  rw [← respond_setWidth, BitVec.setWidth_eq]

theorem respond_wordOfColor12 (c : Color12) (s : State) : respond (wordOfColor12 c) s = returning s (color12Number c) := by
  rw [wordOfColor12_eq]
  rfl

theorem respond_wordOfRgb8 (p : Rgb8) (s : State) : respond (wordOfRgb8 p) s = returning s (rgb8Number p) := by
  rw [wordOfRgb8_eq]
  rfl

/-- A one-bit register (10_state.md R22). -/
theorem respond_ofBool (b : Bool) (s : State) :
    respond ((BitVec.ofBool b).setWidth 32) s = returning s (if b then 1 else 0) := by
  cases b <;> rfl

/-- Settles O11: each register zero-extended. -/
theorem controlStatusAndDimensionReads : Obligations.ControlStatusAndDimensionReads := by
  unfold Obligations.ControlStatusAndDimensionReads
  exact fun s => ⟨exec_eq_returning (respond_ofBool s.ffc s) rfl, exec_eq_returning (respond_setWidth s.status s) rfl,
    exec_eq_returning (respond_setWidth s.width s) rfl, exec_eq_returning (respond_setWidth s.height s) rfl⟩

/-- Settles O27: each register as the number it reads as. -/
theorem resultReadsReturnTheRegisters : Obligations.ResultReadsReturnTheRegisters := by
  unfold Obligations.ResultReadsReturnTheRegisters
  exact fun s => ⟨exec_eq_returning (respond_setWidth s.encOut s) rfl, exec_eq_returning (respond_wordOfColor12 s.encPrev s) rfl,
    exec_eq_returning (respond_count s.encCount s) rfl, exec_eq_returning (respond_wordOfRgb8 s.decOut s) rfl,
    exec_eq_returning (respond_wordOfColor12 s.decPrev s) rfl, exec_eq_returning (respond_count s.decCount s) rfl,
    exec_eq_returning (respond_setWidth s.lookupOut s) rfl⟩

/-! ### Reads have no side effect -/

/-- All that a frame-buffer read can do (20_memory.md R69, R70). -/
theorem execFbR_cases (n : BitVec 20) (s : State) :
    (s.params.fbPixels ≤ n.toNat ∧ execFbR n s = .next (respond 0 s)) ∨
    (n.toNat < s.params.fbPixels ∧ ∃ p, fbRead s.mem n.toNat = some p ∧ execFbR n s = .next (respond (wordOfRgb8 p) s)) ∨
    (n.toNat < s.params.fbPixels ∧ fbRead s.mem n.toNat = none ∧ execFbR n s = .fault (.unwrittenFrameBuffer n.toNat)) := by
  by_cases hlt : n.toNat < s.params.fbPixels
  · cases hread : fbRead s.mem n.toNat with
    | some p => exact .inr (.inl ⟨hlt, p, rfl, by simp [execFbR, hlt, hread]⟩)
    | none => exact .inr (.inr ⟨hlt, rfl, by simp [execFbR, hlt, hread]⟩)
  · exact .inl ⟨not_lt.1 hlt, if_neg hlt⟩

/-- A host read that completes returns some word and changes nothing in the block (20_memory.md R60, R68). -/
theorem exec_hostRead {i : Instr} {s t : State} (hi : isHostRead i = true) (h : exec i s = .next t) : ∃ w, t = respond w s := by
  cases i <;> cases hi
  case fbR n =>
    obtain ⟨-, hexec⟩ | ⟨-, p, -, hexec⟩ | ⟨-, -, hexec⟩ := execFbR_cases n s <;> cases hexec.symm.trans h
    · exact ⟨_, rfl⟩
    · exact ⟨_, rfl⟩
  all_goals
    cases h
    exact ⟨_, rfl⟩

/-- No host read depends on the word that an earlier one returned (20_memory.md R68). -/
theorem exec_hostRead_respond {i : Instr} (hi : isHostRead i = true) (s : State) (w : Word) :
    exec i (respond w s) = exec i s := by
  cases i <;> cases hi <;> rfl

/-- Settles O45: a read only sets the returned word, on which no read depends. -/
theorem readsHaveNoSideEffect : Obligations.ReadsHaveNoSideEffect := by
  unfold Obligations.ReadsHaveNoSideEffect
  intro i s t hi h
  have hrepeat (w : Word) : exec i (respond w s) = .next t := (exec_hostRead_respond hi s w).trans h
  obtain ⟨w, rfl⟩ := exec_hostRead hi h
  exact ⟨rfl, hrepeat w, hrepeat⟩

end Sys2Proof.Machine
end

section
/-! PROOFS. The frame buffer and the palette: a host write and read below the capacity (spec/20_memory.md R69), the palette's write
and read (spec/41_palette.md R141) and the lookup (R143). -/

namespace Sys2Proof.Machine

open Sys2Proof.Safety

/-! ### Host accesses below the capacity -/

theorem exec_fbW_below {n : BitVec 20} {s : State} (v : Word) (h : n.toNat < s.params.fbPixels) :
    exec (.fbW n v) s = .next (s.setMem (fbWrite s.mem n.toNat (rgb8Of v))) := if_pos h

/-- Settles O17: the write is one word write of the frame buffer, and its pixel the three low bytes of the data. -/
theorem frameBufferWriteStoresOnePixel : Obligations.FrameBufferWriteStoresOnePixel := by
  unfold Obligations.FrameBufferWriteStoresOnePixel
  intro n v s hn
  refine ⟨_, exec_fbW_below v hn, rfl, ?_, fun a ha => Memory.read_fbWrite_outside s.mem n.toNat _ ha,
    fun k hk => fbRead_fbWrite_ne s.mem _ hk⟩
  rw [State.setMem_mem, fbRead_fbWrite_same, rgb8Of_eq]

/-- Settles O18: of the three cases of a read, a written word below the capacity leaves one. -/
theorem frameBufferReadReturnsTheWrittenPixel : Obligations.FrameBufferReadReturnsTheWrittenPixel := by
  unfold Obligations.FrameBufferReadReturnsTheWrittenPixel
  intro n s p hn hp
  obtain ⟨hle, -⟩ | ⟨-, q, hq, hexec⟩ | ⟨-, hnone, -⟩ := execFbR_cases n s
  · exact absurd hn hle.not_gt
  · cases hq.symm.trans hp
    exact exec_eq_returning (respond_wordOfRgb8 p s) hexec
  · cases hnone.symm.trans hp

/-! ### The palette and the lookup -/

/-- A colour written reads as the low 12 bits of its data (30_encoding.md R93). -/
theorem color12Number_color12Of (v : Word) : color12Number (color12Of v) = v.toNat % 4096 := by
  rw [color12Number, color12Of_eq, BitVec.toNat_ofNat, BitVec.toNat_ofNat, BitVec.toNat_ofNat]
  omega

/-- Settles O24: a write sets one entry, to the colour in its data; a read returns its entry. -/
theorem paletteWriteAndRead : Obligations.PaletteWriteAndRead := by
  unfold Obligations.PaletteWriteAndRead
  refine fun i v s => ⟨⟨s.setPal (palSet s.pal i (color12Of v)), rfl, rfl, ?_, fun j hj => palGet_palSet_ne s.pal _ hj⟩,
    exec_eq_returning (respond_wordOfColor12 _ s) rfl⟩
  rw [State.setPal_pal, palGet_palSet_same, color12Number_color12Of]

/-- `LOOKUP_OUT`'s contents as one number (10_state.md R36). -/
theorem packLookupOut_eq {d : Nat} (i : BitVec 4) (h : d < 2 ^ 10) : packLookupOut d i = BitVec.ofNat 14 (d * 16 + i.toNat) := by
  rw [← packLookupOut_toNat d i h, BitVec.ofNat_toNat, BitVec.setWidth_eq]

/-- Settles O26: the entry that the scan finds, with its distance. -/
theorem lookupLeavesIndexAndDistance : Obligations.LookupLeavesIndexAndDistance := by
  unfold Obligations.LookupLeavesIndexAndDistance
  intro v s
  refine ⟨(nearest s.pal (color12Of v)).1, color12Of v, color12Number_color12Of v, isNearest_nearest s.pal _, ?_⟩
  rw [← nearest_snd_eq_colourDist, Int.toNat_natCast, ← packLookupOut_eq _ (nearest_dist_lt s.pal _)]
  rfl

end Sys2Proof.Machine
end

section
/-! PROOFS. The encoder (spec/42_encoder.md): the candidates as the statements' table (R162), the selection (R163), the forced first
column (R164), the update (R165) and exact targets (R168). -/

namespace Sys2Proof.Machine

open Sys2Proof.Safety

/-! ### The target and the update as numbers -/

theorem highNibble_ofNat (n : Nat) : (BitVec.ofNat 8 n).extractLsb' 4 4 = BitVec.ofNat 4 (n / 16) := by
  rw [extract_eq_iff, BitVec.toNat_ofNat, BitVec.toNat_ofNat]
  omega

/-- The target of an encoder step (40_color.md R120, 42_encoder.md R161). -/
theorem quantize_rgb8Of (v : Word) : quantize (rgb8Of v) = targetOf v := by
  rw [rgb8Of_eq]
  simp only [quantize, Rgb.map, targetOf, highNibble_ofNat, Nat.div_div_eq_div_mul, Nat.reduceMul, Nat.reducePow]

/-- `ENC_OUT`'s contents as one number (10_state.md R28, 30_encoding.md R91). -/
theorem packEncOut_encode6 {d : Nat} (op : Op) (pay : BitVec 4) (h : d < 2 ^ 10) :
    packEncOut d (encode6 op pay) = BitVec.ofNat 16 (d * 64 + (codeOf op).toNat * 16 + pay.toNat) := by
  have hop := (codeOf op).isLt
  have hpay := pay.isLt
  apply BitVec.eq_of_toNat_eq
  rw [packEncOut_toNat d _ h, encode6_eq_ofNat, BitVec.toNat_ofNat, BitVec.toNat_ofNat]
  omega

/-- The update with a candidate whose distance is that of its colour (42_encoder.md R165). -/
theorem encodeUpdate_eq_encoded {c : Candidate} {t : Color12} (h : c.d = distance c.col t) (s : State) :
    encodeUpdate c s = encoded s t (codeOf c.op).toNat c.pay c.col := by
  have hlt := distance_lt c.col t
  rw [encodeUpdate, h, packEncOut_encode6 c.op c.pay hlt, add_one_eq_ofNat, encoded, ← distance_eq_colourDist, Int.toNat_natCast]
  rfl

theorem exec_encInW_of_lt {s : State} (h : s.encCount.toNat < frameSize s) (v : Word) :
    exec (.encInW v) s = .next (encodeUpdate (chooseCandidate s (targetOf v)) s) := by
  rw [← quantize_rgb8Of]
  exact if_neg h.not_ge

/-- Below the frame size a step emits the candidate that it chooses (42_encoder.md R165). -/
theorem exec_encInW_eq_encoded {s : State} {v : Word} {c : Candidate} (h : s.encCount.toNat < frameSize s)
    (hc : chooseCandidate s (targetOf v) = c) :
    exec (.encInW v) s = .next (encoded s (targetOf v) (codeOf c.op).toNat c.pay c.col) := by
  subst hc
  rw [exec_encInW_of_lt h, encodeUpdate_eq_encoded (chooseCandidate_dist s (targetOf v))]

/-! ### The candidate that a step chooses -/

theorem paletteCandidate_op (pal : Vector Color12 16) (t : Color12) : (paletteCandidate pal t).op = .usePalette := by
  simp only [paletteCandidate]

theorem paletteCandidate_pay (pal : Vector Color12 16) (t : Color12) : (paletteCandidate pal t).pay = (nearest pal t).1 := by
  simp only [paletteCandidate]

theorem paletteCandidate_col (pal : Vector Color12 16) (t : Color12) :
    (paletteCandidate pal t).col = palGet pal (nearest pal t).1 := by
  simp only [paletteCandidate]

theorem paletteCandidate_d (pal : Vector Color12 16) (t : Color12) :
    (paletteCandidate pal t).d = distance (paletteCandidate pal t).col t :=
  candidate_dist (List.mem_cons_self (l := modifyCandidates ⟨0, 0, 0⟩ t))

theorem chooseCandidate_of_forced {s : State} (hffc : s.ffc = true) (hrow : s.encCount.toNat % s.width.toNat = 0) (t : Color12) :
    chooseCandidate s t = paletteCandidate s.pal t := by
  simp [chooseCandidate, forcedFirst, hffc, hrow]

theorem chooseCandidate_of_unforced {s : State} (h : s.ffc = false ∨ s.encCount.toNat % s.width.toNat ≠ 0) (t : Color12) :
    chooseCandidate s t = selectCandidate s.pal s.encPrev t := by
  obtain h | h := h <;> simp [chooseCandidate, forcedFirst, h]

/-- A candidate as a row of the statements' table (42_encoder.md R162). -/
def Candidate.row (c : Candidate) : Nat × BitVec 4 × Color12 := ((codeOf c.op).toNat, c.pay, c.col)

theorem candidateTable_eq_map_row (s : State) (t : Color12) :
    candidateTable s t (nearest s.pal t).1 = (paletteCandidate s.pal t :: modifyCandidates s.encPrev t).map Candidate.row := by
  rw [List.map_cons, Candidate.row, paletteCandidate_op, paletteCandidate_pay, paletteCandidate_col]
  rfl

theorem candidate_colourDist {pal : Vector Color12 16} {p t : Color12} {c : Candidate}
    (h : c ∈ paletteCandidate pal t :: modifyCandidates p t) : colourDist c.col t = c.d := by
  rw [candidate_dist h, distance_eq_colourDist]

/-- A first minimum by the candidates' own distances is one by the distances of their rows' colours. -/
theorem FirstMinimum.rows {l : List Candidate} {c : Candidate} {t : Color12} (h : FirstMinimum l c)
    (hd : ∀ c ∈ l, colourDist c.col t = c.d) :
    ∃ k : Nat, (l.map Candidate.row)[k]? = some c.row ∧
      ∀ (j : Nat) (r : Nat × BitVec 4 × Color12), (l.map Candidate.row)[j]? = some r →
        colourDist c.col t ≤ colourDist r.2.2 t ∧ (j < k → colourDist c.col t < colourDist r.2.2 t) := by
  obtain ⟨k, hk, hmin⟩ := h
  refine ⟨k, by rw [List.getElem?_map, hk, Option.map_some], fun j r hj => ?_⟩
  rw [List.getElem?_map, Option.map_eq_some_iff] at hj
  obtain ⟨c', hc', rfl⟩ := hj
  rw [Candidate.row, hd c (List.mem_of_getElem? hk), hd c' (List.mem_of_getElem? hc')]
  exact_mod_cast hmin j c' hc'

/-- Settles O28: the candidate that the selection finds is the first minimum of the four, whose rows are the table. -/
theorem encoderEmitsTheFirstCandidateAtTheSmallestDistance : Obligations.EncoderEmitsTheFirstCandidateAtTheSmallestDistance := by
  unfold Obligations.EncoderEmitsTheFirstCandidateAtTheSmallestDistance
  intro v s hlt hunforced
  obtain ⟨k, hk, hmin⟩ := (selectCandidate_spec s.pal s.encPrev (targetOf v)).rows fun _ => candidate_colourDist
  have hexec := exec_encInW_eq_encoded hlt (chooseCandidate_of_unforced hunforced (targetOf v))
  rw [← candidateTable_eq_map_row] at hk hmin
  generalize selectCandidate s.pal s.encPrev (targetOf v) = c at hk hmin hexec
  exact ⟨_, k, c.row, isNearest_nearest s.pal (targetOf v), hk, hmin, hexec⟩

/-- Settles O29: a forced step takes the palette candidate, whose operation is 0. -/
theorem forcedFirstColumnUsesThePalette : Obligations.ForcedFirstColumnUsesThePalette := by
  unfold Obligations.ForcedFirstColumnUsesThePalette
  intro v s hlt hffc hrow
  refine ⟨_, isNearest_nearest s.pal (targetOf v), ?_⟩
  rw [exec_encInW_eq_encoded hlt (chooseCandidate_of_forced hffc hrow _), paletteCandidate_op, paletteCandidate_pay,
    paletteCandidate_col]
  rfl

/-! ### Exact targets -/

/-- The first candidate at distance 0 is the first minimum. -/
theorem FirstMinimum.eq_of_d_eq_zero {l : List Candidate} {c c0 : Candidate} {k : Nat} (h : FirstMinimum l c)
    (hk : l[k]? = some c0) (h0 : c0.d = 0) (hbefore : ∀ j < k, ∀ c', l[j]? = some c' → c'.d ≠ 0) : c = c0 := by
  obtain ⟨m, hm, hmin⟩ := h
  obtain ⟨hle, hnot⟩ := hmin k c0 hk
  obtain hlt | rfl | hgt := lt_trichotomy m k
  · exact absurd (by omega) (hbefore m hlt c hm)
  · exact Option.some.inj (hm.symm.trans hk)
  · exact absurd (hnot hgt) (by omega)

/-- The palette candidate is exact exactly when the target is in the palette (42_encoder.md R168). -/
theorem paletteCandidate_d_eq_zero_iff {pal : Vector Color12 16} {t : Color12} :
    (paletteCandidate pal t).d = 0 ↔ ∃ i, palGet pal i = t := by
  obtain ⟨hdist, hmin⟩ := nearest_spec pal t
  rw [paletteCandidate_d, paletteCandidate_col, ← hdist]
  constructor
  · intro h
    exact ⟨_, (distance_eq_zero_iff _ _).1 (hdist.symm.trans h)⟩
  · rintro ⟨i, hi⟩
    obtain ⟨hle, -⟩ := hmin i
    rw [hi, distance_self] at hle
    exact Nat.le_zero.1 hle

theorem paletteCandidate_col_of_mem {pal : Vector Color12 16} {t : Color12} (h : ∃ i, palGet pal i = t) :
    (paletteCandidate pal t).col = t := by
  rw [← distance_eq_zero_iff, ← paletteCandidate_d]
  exact paletteCandidate_d_eq_zero_iff.2 h

/-- A target in the palette is encoded from the palette, forced or not (42_encoder.md R168 item 2). -/
theorem chooseCandidate_of_mem {s : State} {t : Color12} (h : ∃ i, palGet s.pal i = t) :
    chooseCandidate s t = paletteCandidate s.pal t := by
  unfold chooseCandidate
  split
  · rfl
  · exact (selectCandidate_spec s.pal s.encPrev t).eq_of_d_eq_zero (k := 0) rfl (paletteCandidate_d_eq_zero_iff.2 h) nofun

/-- The scan finds the first of the entries that are the target (41_palette.md R142). -/
theorem nearest_eq_of_first {pal : Vector Color12 16} {t : Color12} {i : BitVec 4} (hi : palGet pal i = t)
    (hfirst : ∀ j : BitVec 4, j.toNat < i.toNat → palGet pal j ≠ t) : (nearest pal t).1 = i := by
  obtain ⟨-, hmin⟩ := nearest_spec pal t
  have hcol := paletteCandidate_col_of_mem ⟨i, hi⟩
  rw [paletteCandidate_col] at hcol
  refine BitVec.eq_of_toNat_eq (le_antisymm (not_lt.1 fun hlt => ?_) (not_lt.1 fun hlt => hfirst _ hlt hcol))
  have hd := (hmin i).2 hlt
  rw [hi, distance_self] at hd
  exact Nat.not_lt_zero _ hd

/-- Without the palette, a target that differs from the previous colour at most in red is candidate 1, at distance 0
(42_encoder.md R168 item 3). -/
theorem selectCandidate_of_red {pal : Vector Color12 16} {p t : Color12} (hpal : ∀ j, palGet pal j ≠ t) (hg : p.g = t.g)
    (hb : p.b = t.b) : selectCandidate pal p t = ⟨.modifyRed, t.r, t, 0⟩ := by
  have hcol : (⟨t.r, p.g, p.b⟩ : Color12) = t := by rw [hg, hb]
  refine (selectCandidate_spec pal p t).eq_of_d_eq_zero (k := 1) ?_ rfl fun j hj c' hc => ?_
  · rw [modifyCandidates, hcol, distance_self]
    rfl
  · obtain rfl := Nat.lt_one_iff.1 hj
    cases hc
    exact fun hd => not_exists.2 hpal (paletteCandidate_d_eq_zero_iff.1 hd)

/-- Settles O32: the candidate at distance 0 that comes first, candidate 0 or candidate 1. -/
theorem exactTargetsEncodeAtDistanceZero : Obligations.ExactTargetsEncodeAtDistanceZero := by
  unfold Obligations.ExactTargetsEncodeAtDistanceZero
  refine fun v s hlt => ⟨fun i hi hfirst => ?_, fun hpal hunforced hg hb => ?_⟩
  · have hexec := exec_encInW_eq_encoded hlt (chooseCandidate_of_mem ⟨i, hi⟩)
    rw [paletteCandidate_col_of_mem ⟨i, hi⟩, paletteCandidate_op, paletteCandidate_pay, nearest_eq_of_first hi hfirst] at hexec
    exact hexec
  · exact exec_encInW_eq_encoded hlt ((chooseCandidate_of_unforced hunforced _).trans (selectCandidate_of_red hpal hg hb))

end Sys2Proof.Machine
end

section
/-! PROOFS. The decoder and the streams (spec/43_decoder.md): the word of a `DEC_IN` write (R191), the overflow (60_exceptions.md
R252), and the encoder and the decoder in step (R200, R201; 42_encoder.md R168). -/

namespace Sys2Proof.Machine

open Sys2Proof.Safety

/-! ### The word of a `DEC_IN` write -/

/-- The colour that a HAM6 word reconstructs from the previous colour `p` (43_decoder.md R192 to R195). -/
def ham6Colour (pal : Vector Color12 16) (p : Color12) (op : Op) (n : BitVec 4) : Color12 :=
  match op with
  | .usePalette => palGet pal n
  | .modifyRed => ⟨n, p.g, p.b⟩
  | .modifyGreen => ⟨p.r, n, p.b⟩
  | .modifyBlue => ⟨p.r, p.g, n⟩

theorem exec_ham6Instr (op : Op) (n : BitVec 4) (s : State) :
    exec (ham6Instr op n) s = .next (decodeStep (ham6Colour s.pal s.decPrev op n) s) := by
  cases op <;> rfl

theorem exec_decInW (v : Word) (s : State) : exec (.decInW v) s = exec (decodeHam6 (v.extractLsb' 0 6)) s := by
  change execDecInW v s = _
  unfold execDecInW decodeHam6
  dsimp only
  cases (decode6 (v.extractLsb' 0 6)).1 <;> rfl

/-- A `DEC_IN` write whose low six bits are a word runs the instruction of that word (43_decoder.md R191). -/
theorem exec_decInW_of_word {v : Word} {op : Op} {n : BitVec 4} (h : v.toNat % 64 = (encode6 op n).toNat) (s : State) :
    exec (.decInW v) s = exec (ham6Instr op n) s := by
  have hword : v.extractLsb' 0 6 = encode6 op n := by
    rw [extract_eq_iff]
    simpa using h
  rw [exec_decInW, hword, decodeHam6_encode6]

theorem encode6_toNat (op : Op) (n : BitVec 4) : (encode6 op n).toNat = (codeOf op).toNat * 16 + n.toNat := by
  have hop := (codeOf op).isLt
  have hn := n.isLt
  rw [encode6_eq_ofNat, BitVec.toNat_ofNat]
  omega

theorem exec_ham6Instr_of_lt {s : State} (h : s.decCount.toNat < frameSize s) (op : Op) (n : BitVec 4) :
    exec (ham6Instr op n) s = .next (decoded s (ham6Colour s.pal s.decPrev op n)) := by
  rw [exec_ham6Instr, decodeStep_of_lt h]

theorem opOf_codeOf (op : Op) : opOf (codeOf op) = op := by
  cases op <;> rfl

/-- The operation that `OP = data[5:4]` names, as a number (30_encoding.md R91, R92). -/
theorem exists_op_of_word (v : Word) :
    ∃ op : Op, v.toNat / 16 % 4 = (codeOf op).toNat ∧ ∀ op', v.toNat / 16 % 4 = (codeOf op').toNat → op = op' := by
  have hcode : v.toNat / 16 % 4 = (BitVec.ofNat 2 (v.toNat / 16)).toNat := (BitVec.toNat_ofNat _ 2).symm
  refine ⟨opOf (BitVec.ofNat 2 (v.toNat / 16)), by rw [codeOf_opOf, hcode], fun op' h => ?_⟩
  rw [BitVec.eq_of_toNat_eq (hcode.symm.trans h), opOf_codeOf]

/-- Settles O34: the operation and the payload are the two fields of the word; the operation's own facts by which it is. -/
theorem decInRunsItsWord : Obligations.DecInRunsItsWord := by
  unfold Obligations.DecInRunsItsWord
  intro v s n hn
  obtain ⟨op, hop, huniq⟩ := exists_op_of_word v
  have hexec (op' : Op) (h : v.toNat / 16 % 4 = (codeOf op').toNat) : exec (.decInW v) s = exec (ham6Instr op' n) s := by
    refine exec_decInW_of_word ?_ s
    rw [encode6_toNat]
    omega
  have hcolour (op' : Op) (h : v.toNat / 16 % 4 = (codeOf op').toNat) :
      ham6Colour s.pal s.decPrev op n = ham6Colour s.pal s.decPrev op' n := by
    rw [huniq op' h]
  exact ⟨hexec .usePalette, hexec .modifyRed, hexec .modifyGreen, hexec .modifyBlue, fun hlt =>
    ⟨_, (hexec op hop).trans (exec_ham6Instr_of_lt hlt op n), hcolour .usePalette, hcolour .modifyRed, hcolour .modifyGreen,
      hcolour .modifyBlue⟩⟩

/-! ### The overflow -/

theorem decodeStep_of_full {s : State} (h : frameSize s ≤ s.decCount.toNat) (c : Color12) :
    decodeStep c s = raiseError .decOvf s := if_pos h

/-- Settles O35: each of the five is one decoder step, which at or past the frame size raises `DEC_OVF`, bit 1. -/
theorem decoderOverflowOnlySetsItsBit : Obligations.DecoderOverflowOnlySetsItsBit := by
  unfold Obligations.DecoderOverflowOnlySetsItsBit
  intro v n s i hfull hi
  have hstep (c : Color12) : (.next (decodeStep c s) : Answer) = .next (raiseError .decOvf s) := by
    rw [decodeStep_of_full hfull]
  obtain rfl | rfl | rfl | rfl | rfl := hi
  · obtain ⟨c, hexec⟩ := execDecInW_step v s
    exact hexec.trans (hstep c)
  · exact hstep _
  · exact hstep _
  · exact hstep _
  · exact hstep _

/-! ### The encoder and the decoder in step -/

/-- Every candidate's colour is what its own word reconstructs (43_decoder.md R200). -/
theorem candidate_col {pal : Vector Color12 16} {p t : Color12} {c : Candidate}
    (h : c ∈ paletteCandidate pal t :: modifyCandidates p t) : c.col = ham6Colour pal p c.op c.pay := by
  rcases List.mem_cons.1 h with rfl | h
  · rw [paletteCandidate_op, paletteCandidate_pay, paletteCandidate_col]
    rfl
  · simp only [modifyCandidates, List.mem_cons, List.not_mem_nil, or_false] at h
    obtain rfl | rfl | rfl := h <;> rfl

theorem chooseCandidate_mem (s : State) (t : Color12) :
    chooseCandidate s t ∈ paletteCandidate s.pal t :: modifyCandidates s.encPrev t := by
  unfold chooseCandidate
  split
  · exact List.mem_cons_self
  · exact selectCandidate_mem s.pal s.encPrev t

/-- The word that an encoder step leaves in `ENC_OUT` (42_encoder.md R165). -/
theorem wordOut_encodeUpdate {c : Candidate} (h : c.d < 2 ^ 10) (s : State) :
    (wordOut (encodeUpdate c s)).toNat % 64 = (encode6 c.op c.pay).toNat := by
  have hword := (encode6 c.op c.pay).isLt
  have hout : (encodeUpdate c s).encOut.toNat = c.d * 64 + (encode6 c.op c.pay).toNat := packEncOut_toNat c.d _ h
  rw [wordOut, hout, BitVec.toNat_ofNat]
  omega

/-- What encoding the pixel of `v` and decoding the word that it leaves makes of `s`. -/
def codecStep (v : Word) (s : State) : State :=
  decoded (encodeUpdate (chooseCandidate s (targetOf v)) s) (chooseCandidate s (targetOf v)).col

/-- The decoder has the encoder's previous colour, and both have room for `n` more pixels. -/
structure InStep (n : Nat) (s : State) : Prop where
  prev : s.encPrev = s.decPrev
  enc : s.encCount.toNat + n ≤ frameSize s
  dec : s.decCount.toNat + n ≤ frameSize s

/-- Decoding the word that a candidate left reconstructs the candidate's colour (43_decoder.md R200). -/
theorem exec_decInW_wordOut {s : State} {n : Nat} (h : InStep (n + 1) s) {c : Candidate} {t : Color12}
    (hc : c ∈ paletteCandidate s.pal t :: modifyCandidates s.encPrev t) :
    exec (.decInW (wordOut (encodeUpdate c s))) (encodeUpdate c s) = .next (decoded (encodeUpdate c s) c.col) := by
  have hdist : c.d < 2 ^ 10 := candidate_dist hc ▸ distance_lt c.col t
  have hdec := h.dec
  have hlt : (encodeUpdate c s).decCount.toNat < frameSize (encodeUpdate c s) := show s.decCount.toNat < frameSize s by omega
  rw [exec_decInW_of_word (wordOut_encodeUpdate hdist s), exec_ham6Instr_of_lt hlt, candidate_col hc, h.prev]
  rfl

/-- The two accesses of one pixel, where encoder and decoder are in step. -/
theorem exec_pixel_of_inStep {s : State} {n : Nat} (h : InStep (n + 1) s) (v : Word) :
    ∃ t, t.encPrev = (chooseCandidate s (targetOf v)).col ∧ exec (.encInW v) s = .next t ∧
      exec (.decInW (wordOut t)) t = .next (codecStep v s) := by
  have henc := h.enc
  exact ⟨_, rfl, exec_encInW_of_lt (by omega) v, exec_decInW_wordOut h (chooseCandidate_mem s (targetOf v))⟩

/-- Settles O39: the word of the chosen candidate reconstructs the candidate's colour. -/
theorem decodingTheEmittedWordFollowsTheEncoder : Obligations.DecodingTheEmittedWordFollowsTheEncoder := by
  unfold Obligations.DecodingTheEmittedWordFollowsTheEncoder
  intro v s hprev henc hdec
  have h : InStep (0 + 1) s := ⟨hprev, henc, hdec⟩
  obtain ⟨t, hcol, hencode, hdecode⟩ := exec_pixel_of_inStep h v
  refine ⟨t, codecStep v s, hencode, hdecode, ?_⟩
  rw [hcol]
  exact ⟨rfl, rfl, rfl, rfl⟩

/-! ### Streams -/

@[simp] theorem frameSize_codecStep (v : Word) (s : State) : frameSize (codecStep v s) = frameSize s := rfl

theorem codecStep_encCount {s : State} {n : Nat} (h : InStep (n + 1) s) (v : Word) :
    (codecStep v s).encCount.toNat = s.encCount.toNat + 1 := by
  have henc := h.enc
  exact count_succ (show s.encCount.toNat < frameSize s by omega)

theorem codecStep_decCount {s : State} {n : Nat} (h : InStep (n + 1) s) (v : Word) :
    (codecStep v s).decCount.toNat = s.decCount.toNat + 1 := by
  have hdec := h.dec
  rw [← count_succ (show s.decCount.toNat < frameSize s by omega), add_one_eq_ofNat]
  rfl

/-- One pixel later the two are still in step. -/
theorem InStep.codecStep {s : State} {n : Nat} (h : InStep (n + 1) s) (v : Word) : InStep n (codecStep v s) where
  prev := rfl
  enc := by
    have henc := h.enc
    rw [codecStep_encCount h, frameSize_codecStep]
    omega
  dec := by
    have hdec := h.dec
    rw [codecStep_decCount h, frameSize_codecStep]
    omega

/-- The first pixel of a stream. -/
theorem codecRun_cons {s : State} {n : Nat} (h : InStep (n + 1) s) (v : Word) {vs : List Word} {outs : List (Color12 × Rgb8)}
    {t : State} (hrest : codecRun vs (codecStep v s) = some (outs, t)) :
    codecRun (v :: vs) s =
      some (((chooseCandidate s (targetOf v)).col, expanded (chooseCandidate s (targetOf v)).col) :: outs, t) := by
  obtain ⟨u, -, henc, hdec⟩ := exec_pixel_of_inStep h v
  simp only [codecRun, henc, hdec, hrest]
  rfl

/-- A stream that fits completes, its outputs the encoder's colours expanded (43_decoder.md R200, R201). -/
theorem codecRun_spec (vs : List Word) : ∀ {s : State}, InStep vs.length s →
    ∃ outs t, codecRun vs s = some (outs, t) ∧ outs.length = vs.length ∧ (∀ o ∈ outs, o.2 = expanded o.1) ∧
      t.encCount.toNat = s.encCount.toNat + vs.length ∧ t.decCount.toNat = s.decCount.toNat + vs.length ∧
      t.status = s.status ∧ t.encPrev = t.decPrev ∧ frameSize t = frameSize s := by
  induction vs with
  | nil => exact fun h => ⟨[], _, rfl, rfl, nofun, rfl, rfl, rfl, h.prev, rfl⟩
  | cons v vs ih =>
    intro s h
    obtain ⟨outs, t, hrun, hlen, hall, henc, hdec, hstatus, hprev, hframe⟩ := ih (h.codecStep v)
    rw [codecStep_encCount h] at henc
    rw [codecStep_decCount h] at hdec
    refine ⟨_, t, codecRun_cons h v hrun, by rw [List.length_cons, hlen, List.length_cons], ?_, ?_, ?_, hstatus, hprev, hframe⟩
    · exact List.forall_mem_cons.2 ⟨rfl, hall⟩
    · rw [henc, List.length_cons]
      omega
    · rw [hdec, List.length_cons]
      omega

/-- Settles O40: after the two resets encoder and decoder are in step, and a whole frame leaves the count at the frame size. -/
theorem decodedStreamIsTheEncodersColours : Obligations.DecodedStreamIsTheEncodersColours := by
  unfold Obligations.DecodedStreamIsTheEncodersColours
  intro vs s a b ha hb hfit
  cases ha
  cases hb
  have h : InStep vs.length ((s.setEnc ⟨0, 0, 0⟩ 0).setDec ⟨0, 0, 0⟩ 0) :=
    ⟨rfl, (Nat.zero_add _).trans_le hfit, (Nat.zero_add _).trans_le hfit⟩
  obtain ⟨outs, t, hrun, hlen, hall, henc, hdec, hstatus, hprev, hframe⟩ := codecRun_spec vs h
  refine ⟨outs, t, hrun, hlen, hall, henc.trans (Nat.zero_add _), hdec.trans (Nat.zero_add _), hstatus, hprev, fun hwhole => ?_⟩
  rw [exec_decCheck, if_pos]
  exact (hdec.trans (Nat.zero_add _)).trans (hwhole.trans hframe.symm)

/-- A stream of palette colours comes back (42_encoder.md R168 item 2). -/
theorem codecRun_of_palette (vs : List Word) : ∀ {s : State}, InStep vs.length s →
    (∀ v ∈ vs, ∃ i : BitVec 4, palGet s.pal i = targetOf v) →
    ∃ t, codecRun vs s = some (vs.map (fun v => (targetOf v, expanded (targetOf v))), t) := by
  induction vs with
  | nil => exact fun _ _ => ⟨_, rfl⟩
  | cons v vs ih =>
    intro s h hpal
    obtain ⟨hv, hvs⟩ := List.forall_mem_cons.1 hpal
    obtain ⟨t, ht⟩ := ih (h.codecStep v) hvs
    have hcol : (chooseCandidate s (targetOf v)).col = targetOf v := by
      rw [chooseCandidate_of_mem hv, paletteCandidate_col_of_mem hv]
    have hrun := codecRun_cons h v ht
    rw [hcol] at hrun
    exact ⟨t, hrun⟩

/-- Settles O41: by induction on the stream, each target the colour of the palette candidate. -/
theorem paletteColouredImagesComeBackExactly : Obligations.PaletteColouredImagesComeBackExactly := by
  unfold Obligations.PaletteColouredImagesComeBackExactly
  exact fun vs s hprev henc hdec hpal => codecRun_of_palette vs ⟨hprev, henc, hdec⟩ hpal

end Sys2Proof.Machine
end

section
/-! PROOFS. The frame buffer in the whole machine: the only faults (spec/20_memory.md R69, 60_exceptions.md R255,
70_reset_and_hazards.md R288), the instructions that do not read it (10_state.md R39), and what a dither pass reads
(44_dither.md R232). -/

namespace Sys2Proof.Machine

open Sys2Proof.Safety

/-! ### The passes -/

/-- The three passes of the dither engine (44_dither.md R223, R225, R227). -/
inductive IsPass : (State → Except Fault State) → Prop
  | naive : IsPass naivePass
  | fs : IsPass fsPass
  | jjn : IsPass jjnPass

theorem exists_isPass_of_ne_cmdW {i : Instr} (hc : ∀ v, i ≠ .cmdW v) (hi : isDither i = true) :
    ∃ pass, IsPass pass ∧ ∀ s, exec i s = ditherCommand pass s := by
  cases i
  case cmdW v => exact absurd rfl (hc v)
  case ditherNaive => exact ⟨naivePass, .naive, fun _ => rfl⟩
  case ditherFs => exact ⟨fsPass, .fs, fun _ => rfl⟩
  case ditherJjn => exact ⟨jjnPass, .jjn, fun _ => rfl⟩
  all_goals cases hi

/-- Every dither command, as itself and as a `CMD` write, is the capacity check and then one of the three passes. -/
theorem exists_isPass_of_isDither {i : Instr} (hi : isDither i = true) :
    ∃ pass, IsPass pass ∧ ∀ s, exec i s = ditherCommand pass s := by
  by_cases hw : ∃ v, i = .cmdW v
  · obtain ⟨v, rfl⟩ := hw
    simp only [exec_cmdW]
    exact exists_isPass_of_ne_cmdW (fun _ => decodeCmd_ne rfl v) ((isDither_decodeCmd v).trans hi)
  · exact exists_isPass_of_ne_cmdW (not_exists.1 hw) hi

/-! ### When a pass faults -/

theorem not_written_of_fbRead {s : State} {n : Nat} (h : fbRead s.mem n = none) : ¬ Written s n :=
  fun ⟨_, hp⟩ => nomatch h.symm.trans hp

theorem naivePass_error {s : State} {f : Fault} (h : naivePass s = .error f) :
    ∃ n, f = .unwrittenFrameBuffer n ∧ n < frameSize s ∧ ¬ Written s n := by
  unfold naivePass at h
  split at h <;> cases h
  next hloop =>
    obtain ⟨n, hf, hn, hnone⟩ := naiveLoop_error hloop
    exact ⟨n, hf, naiveWord_lt hn, not_written_of_fbRead hnone⟩

/-- A pass faults only at an unwritten word of the raster (70_reset_and_hazards.md R288). -/
theorem IsPass.error {pass : State → Except Fault State} (hp : IsPass pass) {s : State} {f : Fault} (h : pass s = .error f) :
    ∃ n, f = .unwrittenFrameBuffer n ∧ n < frameSize s ∧ ¬ Written s n := by
  cases hp with
  | naive => exact naivePass_error h
  | fs =>
    obtain ⟨n, hf, hn, hnone⟩ := kernelPass_error h
    exact ⟨n, hf, fsWord_lt hn, not_written_of_fbRead hnone⟩
  | jjn =>
    obtain ⟨n, hf, hn, hnone⟩ := kernelPass_error h
    exact ⟨n, hf, jjnWord_lt hn, not_written_of_fbRead hnone⟩

/-- A naive pass completes exactly on a written raster (70_reset_and_hazards.md R288). -/
theorem naivePass_completes_iff {s : State} : (∃ t, naivePass s = .ok t) ↔ RasterWritten s := by
  refine ⟨fun ⟨t, ht⟩ n hn => ?_, naivePass_completes⟩
  obtain ⟨_, -, hsteps⟩ := naivePass_spec ht .r
  obtain ⟨p, _, hp, -⟩ := hsteps n hn
  exact ⟨p, hp⟩

/-- Settles O52: the pass completes exactly on a written raster, and otherwise faults. -/
theorem ditherNaiveFaultsExactlyOnUnwrittenWords : Obligations.DitherNaiveFaultsExactlyOnUnwrittenWords := by
  unfold Obligations.DitherNaiveFaultsExactlyOnUnwrittenWords
  intro s hfit
  rw [← naivePass_completes_iff]
  refine ⟨?_, fun ⟨t, ht⟩ => ⟨t, (exec_ditherNaive_next_iff hfit).2 ht⟩⟩
  change (∃ n, ditherCommand naivePass s = _) ↔ _
  simp only [ditherCommand_fault_iff hfit]
  cases h : naivePass s with
  | ok t => simp
  | error f =>
    obtain ⟨n, rfl, -⟩ := naivePass_error h
    simp

/-! ### The instructions that do not read the frame buffer -/

/-- The instructions that read or write the frame buffer: the dither commands and the host's accesses (10_state.md R39). -/
def UsesFrameBuffer (i : Instr) : Prop := isDither i = true ∨ (∃ n v, i = .fbW n v) ∨ ∃ n, i = .fbR n

/-- Instruction `i` completes from `s`, carries the frame buffer along and depends on it in no way. -/
def CarriesMem (i : Instr) (s : State) : Prop :=
  ∃ t, exec i s = .next t ∧ ∀ m, exec i (s.setMem m) = .next (t.setMem m)

theorem decodeStep_setMem (c : Color12) (s : State) (m : Memory) : decodeStep c (s.setMem m) = (decodeStep c s).setMem m := by
  unfold decodeStep
  rw [State.setMem_decCount, frameSize_setMem]
  split <;> rfl

theorem carriesMem_ham6Instr (op : Op) (n : BitVec 4) (s : State) : CarriesMem (ham6Instr op n) s := by
  refine ⟨_, exec_ham6Instr op n s, fun m => ?_⟩
  rw [exec_ham6Instr, decodeStep_setMem]
  rfl

theorem carriesMem_decInW (v : Word) (s : State) : CarriesMem (.decInW v) s := by
  unfold CarriesMem
  simp only [exec_decInW]
  exact carriesMem_ham6Instr _ _ s

theorem carriesMem_encInW (v : Word) (s : State) : CarriesMem (.encInW v) s := by
  by_cases hfull : frameSize s ≤ s.encCount.toNat
  · exact ⟨_, if_pos hfull, fun m => if_pos hfull⟩
  · exact ⟨_, if_neg hfull, fun m => if_neg hfull⟩

theorem carriesMem_decCheck (s : State) : CarriesMem .decCheck s := by
  by_cases hcount : s.decCount.toNat ≠ frameSize s
  · exact ⟨_, if_pos hcount, fun m => if_pos hcount⟩
  · exact ⟨_, if_neg hcount, fun m => if_neg hcount⟩

theorem carriesMem_of_ne_cmdW {i : Instr} (hi : ¬ UsesFrameBuffer i) (hc : ∀ v, i ≠ .cmdW v) (s : State) : CarriesMem i s := by
  cases i
  case cmdW v => exact absurd rfl (hc v)
  case ditherNaive => exact absurd (.inl rfl) hi
  case ditherFs => exact absurd (.inl rfl) hi
  case ditherJjn => exact absurd (.inl rfl) hi
  case fbW n v => exact absurd (.inr (.inl ⟨n, v, rfl⟩)) hi
  case fbR n => exact absurd (.inr (.inr ⟨n, rfl⟩)) hi
  case usepal n => exact carriesMem_ham6Instr .usePalette n s
  case modr n => exact carriesMem_ham6Instr .modifyRed n s
  case modg n => exact carriesMem_ham6Instr .modifyGreen n s
  case modb n => exact carriesMem_ham6Instr .modifyBlue n s
  case decInW v => exact carriesMem_decInW v s
  case encInW v => exact carriesMem_encInW v s
  case decCheck => exact carriesMem_decCheck s
  all_goals exact ⟨_, rfl, fun m => rfl⟩

theorem usesFrameBuffer_decodeCmd {v : Word} (h : UsesFrameBuffer (decodeCmd v)) : UsesFrameBuffer (.cmdW v) := by
  obtain hd | ⟨n, w, hw⟩ | ⟨n, hn⟩ := h
  · exact .inl ((isDither_decodeCmd v).symm.trans hd)
  · exact absurd hw (decodeCmd_ne rfl v)
  · exact absurd hn (decodeCmd_ne rfl v)

/-- No instruction but the frame-buffer accesses and the dither commands depends on the frame buffer (10_state.md R39). -/
theorem carriesMem {i : Instr} (hi : ¬ UsesFrameBuffer i) (s : State) : CarriesMem i s := by
  by_cases hw : ∃ v, i = .cmdW v
  · obtain ⟨v, rfl⟩ := hw
    unfold CarriesMem
    simp only [exec_cmdW]
    exact carriesMem_of_ne_cmdW (mt usesFrameBuffer_decodeCmd hi) (fun _ => decodeCmd_ne rfl v) s
  · exact carriesMem_of_ne_cmdW hi (not_exists.1 hw) s

/-- Settles O48: such an instruction carries the frame buffer along, and none but its own instructions changes it. -/
theorem onlyFrameBufferInstructionsReadTheFrameBuffer : Obligations.OnlyFrameBufferInstructionsReadTheFrameBuffer := by
  unfold Obligations.OnlyFrameBufferInstructionsReadTheFrameBuffer
  intro i s t m hd hfbW hfbR h
  have hi : ¬ UsesFrameBuffer i := by
    rintro (hd' | ⟨n, v, hw⟩ | ⟨n, hn⟩)
    · cases hd.symm.trans hd'
    · exact hfbW n v hw
    · exact hfbR n hn
  obtain ⟨u, hu, hmem⟩ := carriesMem hi s
  cases h.symm.trans hu
  exact ⟨(exec_effect h).mem_cases.resolve_right fun hcase => hi (hcase.elim (fun hw => .inr (.inl hw)) .inl), hmem m⟩

/-! ### The only faults -/

theorem ditherCommand_fault {pass : State → Except Fault State} (hp : IsPass pass) {s : State} {f : Fault}
    (h : ditherCommand pass s = .fault f) : ∃ n, f = .unwrittenFrameBuffer n ∧ n < s.params.fbPixels ∧ ¬ Written s n := by
  obtain ⟨-, hcmd⟩ | ⟨-, t, -, hcmd⟩ | ⟨hfit, g, hpass, hcmd⟩ := ditherCommand_cases pass s <;> cases hcmd.symm.trans h
  obtain ⟨n, hf, hn, hw⟩ := hp.error hpass
  exact ⟨n, hf, hn.trans_le hfit, hw⟩

theorem exec_fbW_ne_fault (n : BitVec 20) (v : Word) (s : State) (f : Fault) : exec (.fbW n v) s ≠ .fault f := by
  by_cases hn : n.toNat < s.params.fbPixels
  · rw [exec_fbW_below v hn]
    nofun
  · rw [exec_fbW_beyond v (not_lt.1 hn)]
    nofun

/-- A host read that faults is one of an unwritten word below the capacity (20_memory.md R69). -/
theorem exec_fbR_fault {n : BitVec 20} {s : State} {f : Fault} (h : exec (.fbR n) s = .fault f) :
    f = .unwrittenFrameBuffer n.toNat ∧ n.toNat < s.params.fbPixels ∧ ¬ Written s n.toNat := by
  obtain ⟨-, hexec⟩ | ⟨-, p, -, hexec⟩ | ⟨hlt, hnone, hexec⟩ := execFbR_cases n s <;> cases hexec.symm.trans h
  exact ⟨rfl, hlt, not_written_of_fbRead hnone⟩

/-- All that can fault: a read of an unwritten word below the capacity, and a dither command on one (60_exceptions.md R255). -/
theorem exec_fault_cases {i : Instr} {s : State} {f : Fault} (h : exec i s = .fault f) :
    ∃ n, f = .unwrittenFrameBuffer n ∧ (n < s.params.fbPixels ∧ ¬ Written s n) ∧
      (i = .fbR (BitVec.ofNat 20 n) ∨ isDither i = true) := by
  by_cases hi : UsesFrameBuffer i
  · obtain hd | ⟨n, v, rfl⟩ | ⟨n, rfl⟩ := hi
    · obtain ⟨pass, hp, hexec⟩ := exists_isPass_of_isDither hd
      obtain ⟨n, hf, hn⟩ := ditherCommand_fault hp ((hexec s).symm.trans h)
      exact ⟨n, hf, hn, .inr hd⟩
    · exact absurd h (exec_fbW_ne_fault n v s f)
    · obtain ⟨hf, hn⟩ := exec_fbR_fault h
      exact ⟨n.toNat, hf, hn, .inl (by rw [BitVec.ofNat_toNat, BitVec.setWidth_eq])⟩
  · obtain ⟨t, ht, -⟩ := carriesMem hi s
    cases ht.symm.trans h

/-- Settles O19: the read by its cases; the rest by the answers that an instruction can give. -/
theorem onlyUnwrittenWordsStopTheMachine : Obligations.OnlyUnwrittenWordsStopTheMachine := by
  unfold Obligations.OnlyUnwrittenWordsStopTheMachine
  refine ⟨fun n s hn hw => ?_, exec_ne_refused, fun i s n h => ?_⟩
  · obtain ⟨hle, -⟩ | ⟨-, p, hp, -⟩ | ⟨-, -, hexec⟩ := execFbR_cases n s
    · exact absurd hn hle.not_gt
    · exact absurd ⟨p, hp⟩ hw
    · exact hexec
  · obtain ⟨m, hm, hrest⟩ := exec_fault_cases h
    cases hm
    obtain ⟨⟨hn, hw⟩, hi⟩ := hrest
    exact ⟨hw, hn, hi⟩

/-! ### What a dither pass reads -/

/-- `u` has the frame buffer, the dimensions and the parameters of `s` (44_dither.md R232). -/
structure SameRaster (s u : State) : Prop where
  mem : u.mem = s.mem
  width : u.width = s.width
  height : u.height = s.height
  params : u.params = s.params

theorem SameRaster.readPixel {s u : State} (h : SameRaster s u) (x y : Int) :
    Machine.readPixel u x y = Machine.readPixel s x y := by
  unfold Machine.readPixel pixelIndex
  rw [h.mem, h.width]

theorem SameRaster.writePixel {s u : State} (h : SameRaster s u) (x y : Int) (p : Rgb8) :
    SameRaster (Machine.writePixel s x y p) (Machine.writePixel u x y p) where
  mem := by simp only [Machine.writePixel, State.setMem_mem, pixelIndex, h.mem, h.width]
  width := h.width
  height := h.height
  params := h.params

/-- From states that `R` relates, `body` completes in states that `R` relates. -/
def Respects (R : State → State → Prop) (body : State → Except Fault State) : Prop :=
  ∀ ⦃s u t⦄, R s u → body s = .ok t → ∃ w, body u = .ok w ∧ R t w

theorem respects_forEach {α : Type} {R : State → State → Prop} {body : α → State → Except Fault State}
    (hb : ∀ a, Respects R (body a)) (as : List α) : Respects R (forEach body as) := by
  induction as with
  | nil =>
    intro s u t h ht
    cases ht
    exact ⟨u, rfl, h⟩
  | cons a as ih =>
    intro s u t h ht
    rw [forEach_cons] at ht
    split at ht
    next v hv =>
      obtain ⟨w, hw, hvw⟩ := hb a h hv
      rw [forEach_cons_ok hw]
      exact ih hvw ht
    next => cases ht

/-- The naive pass carries the error term from pixel to pixel (44_dither.md R223). -/
structure SameNaive (s u : State) : Prop extends SameRaster s u where
  dthErr : u.dthErr = s.dthErr

theorem respects_naivePixel (xy : Int × Int) : Respects SameNaive (naivePixel xy) := by
  intro s u t h ht
  unfold naivePixel at ht ⊢
  rw [h.readPixel, h.dthErr]
  cases hread : readPixel s xy.1 xy.2 with
  | error f =>
    rw [hread] at ht
    cases ht
  | ok o =>
    rw [hread] at ht
    cases ht
    exact ⟨_, rfl, { h.writePixel xy.1 xy.2 _ with dthErr := rfl }⟩

theorem respects_diffuseTap (divisor : Nat) (e : Rgb Int) (xy : Int × Int) (tap : Tap) :
    Respects SameRaster (diffuseTap divisor e xy tap) := by
  intro s u t h ht
  unfold diffuseTap at ht ⊢
  rw [h.readPixel, h.params]
  cases hread : readPixel s (xy.1 + tap.dx) (xy.2 + tap.dy) with
  | error f =>
    rw [hread] at ht
    cases ht
  | ok o =>
    rw [hread] at ht
    cases ht
    exact ⟨_, rfl, h.writePixel _ _ _⟩

theorem respects_kernelPixel (kernel : List Tap) (divisor : Nat) (xy : Int × Int) :
    Respects SameRaster (kernelPixel kernel divisor xy) := by
  intro s u t h ht
  unfold kernelPixel at ht ⊢
  rw [h.readPixel]
  cases hread : readPixel s xy.1 xy.2 with
  | error f =>
    rw [hread] at ht
    cases ht
  | ok o =>
    rw [hread] at ht
    exact respects_forEach (respects_diffuseTap divisor (o.map channelError) xy) kernel (h.writePixel _ _ _) ht

theorem respects_naivePass : Respects SameRaster naivePass := by
  intro s u t h ht
  unfold naivePass at ht ⊢
  rw [h.width, h.height]
  split at ht <;> cases ht
  next v hv =>
    have hstart : SameNaive (s.setDthErr ⟨0, 0, 0⟩) (u.setDthErr ⟨0, 0, 0⟩) := { h with dthErr := rfl }
    obtain ⟨w, hw, hvw⟩ := respects_forEach respects_naivePixel _ hstart hv
    rw [hw]
    exact ⟨_, rfl, { hvw with }⟩

theorem respects_fsPass : Respects SameRaster fsPass := by
  intro s u t h ht
  unfold fsPass at ht ⊢
  rw [h.width, h.height]
  exact respects_forEach (respects_kernelPixel kernelFs 16) _ h ht

theorem respects_jjnPass : Respects SameRaster jjnPass := by
  intro s u t h ht
  unfold jjnPass at ht ⊢
  rw [h.width, h.height]
  exact respects_forEach (respects_kernelPixel kernelJjn 48) _ h ht

/-- A pass depends on the frame buffer, the dimensions and the parameters alone (44_dither.md R232; log 19). -/
theorem IsPass.respects {pass : State → Except Fault State} (hp : IsPass pass) : Respects SameRaster pass := by
  cases hp with
  | naive => exact respects_naivePass
  | fs => exact respects_fsPass
  | jjn => exact respects_jjnPass

/-- Settles O58: pixel by pixel, the two passes read the same words and write the same ones. -/
theorem ditherReadsNoCodecRegister : Obligations.DitherReadsNoCodecRegister := by
  unfold Obligations.DitherReadsNoCodecRegister
  intro i s u t hi hfit hmem hwidth hheight hparams h
  obtain ⟨pass, hp, hexec⟩ := exists_isPass_of_isDither hi
  have hfit' : RasterFits u := by rwa [RasterFits, hwidth, hheight, hparams]
  rw [hexec, ditherCommand_next_iff hfit] at h
  obtain ⟨w, hw, htw⟩ := hp.respects ⟨hmem, hwidth, hheight, hparams⟩ h
  exact ⟨w, (hexec u).trans ((ditherCommand_next_iff hfit').2 hw), htw.mem⟩

end Sys2Proof.Machine
end
